-- ==== Sys2Proof/Word.lean ====
section
/-! DEFINITION. The word types of BSR: the widths the spec fixes, as abbreviations of bit vectors, and how one bit becomes
a word. Bit 0 is the least significant bit throughout (spec/00_scope.md R14). -/

namespace Sys2Proof

/-- One byte of the stream (00_scope R14). -/
abbrev Byte := BitVec 8

/-- `OPERAND`, the accumulator and the budget: 32 bits (00_scope R6, R8, R9). -/
abbrev Word32 := BitVec 32

/-- A command word on `cmd_data` (00_scope R13). -/
abbrev CmdWord := BitVec 64

/-- The response value field (00_scope R12). -/
abbrev Value := BitVec 64

/-- One bit, zero-extended to `w` bits (00_scope R15, `zext`). -/
def bitWord (w : Nat) (b : Bool) : BitVec w := (BitVec.ofBool b).setWidth w

end Sys2Proof
end

