-- ==== Sys2Proof/Config.lean ====
section
/-! DEFINITION. What an implementation of BSR fixes: the one parameter the spec leaves open, `WORD_BITS`
(spec/00_scope.md R10; every other parameter has a value fixed by R6 to R13 and stands in the types). -/

namespace Sys2Proof

/-- The three widths `WORD_BITS` may have (00_scope R10). -/
inductive WordBits where
  | w16
  | w32
  | w64
deriving DecidableEq, Repr, Inhabited

/-- `WORD_BITS` as a number (00_scope R10). -/
def WordBits.bits : WordBits → Nat
  | .w16 => 16
  | .w32 => 32
  | .w64 => 64

/-- `WORD_BITS` of this machine. The spec leaves it OPEN (00_scope R10, 92 D11), so the constant has no body: a statement
that uses it holds for each of the three values (log 8). -/
opaque Config.wordBits : WordBits

/-- `MAX_FIELD_WIDTH` (00_scope R7). -/
def Config.maxFieldWidth : Nat := 32

end Sys2Proof
end

