-- ==== Sys2Proof/Syntax.lean ====
section
/-! DEFINITION. The BSR command set v1 (spec/30_encoding.md R70 to R87): one constructor of `Instr` per row of
spec/opcode_table.json, and the four fields of a command word. -/

namespace Sys2Proof

/-- The result type of an F command (30_encoding R72). -/
inductive FieldType where
  | bool
  | u8
  | u16
  | u32
  | u64
  | word
deriving DecidableEq, Repr

/-- A BSR command, one constructor per row of the opcode map (30_encoding R85). Every operand is the whole of `OPERAND`,
a 32-bit unsigned value (R74, R78), so no value of this type lacks a word. -/
inductive Instr where
  /-- `init budget` (40_control R104) -/
  | init (budget : Word32)
  /-- `read_bit` (41_bit_read R116) -/
  | readBit
  /-- `f.bool n` (42_field_read R130) -/
  | fBool (n : Word32)
  /-- `f.u8 n` (42_field_read R131) -/
  | fU8 (n : Word32)
  /-- `f.u16 n` (42_field_read R132) -/
  | fU16 (n : Word32)
  /-- `f.u32 n` (42_field_read R133) -/
  | fU32 (n : Word32)
  /-- `f.u64 n` (42_field_read R134) -/
  | fU64 (n : Word32)
  /-- `f.word n` (42_field_read R135) -/
  | fWord (n : Word32)
  /-- `ns n` (43_ns_decode R145) -/
  | ns (n : Word32)
deriving DecidableEq, Repr

/-- The F command of a result type (30_encoding R72, R85). -/
def FieldType.command : FieldType → Word32 → Instr
  | .bool, n => .fBool n
  | .u8, n => .fU8 n
  | .u16, n => .fU16 n
  | .u32, n => .fU32 n
  | .u64, n => .fU64 n
  | .word, n => .fWord n

/-- The four fields of a command word (30_encoding R70). -/
structure Fields where
  /-- `OP`, bits 3:0 -/
  op : BitVec 4
  /-- `TY`, bits 6:4 -/
  ty : BitVec 3
  /-- `RSV`, bits 31:7 -/
  rsv : BitVec 25
  /-- `OPERAND`, bits 63:32 -/
  operand : Word32
deriving DecidableEq, Repr

/-- The `TY` code of a result type (30_encoding R72). -/
def FieldType.code : FieldType → BitVec 3
  | .bool => 0#3
  | .u8 => 1#3
  | .u16 => 2#3
  | .u32 => 3#3
  | .u64 => 4#3
  | .word => 5#3

/-- The fields the opcode map gives a command (30_encoding R71, R72, R74, R85). -/
def Instr.fields : Instr → Fields
  | .init budget => ⟨1#4, 0#3, 0#25, budget⟩
  | .readBit => ⟨2#4, 0#3, 0#25, 0#32⟩
  | .fBool n => ⟨3#4, FieldType.bool.code, 0#25, n⟩
  | .fU8 n => ⟨3#4, FieldType.u8.code, 0#25, n⟩
  | .fU16 n => ⟨3#4, FieldType.u16.code, 0#25, n⟩
  | .fU32 n => ⟨3#4, FieldType.u32.code, 0#25, n⟩
  | .fU64 n => ⟨3#4, FieldType.u64.code, 0#25, n⟩
  | .fWord n => ⟨3#4, FieldType.word.code, 0#25, n⟩
  | .ns n => ⟨4#4, 0#3, 0#25, n⟩

/-- The mnemonics of the assembler (30_encoding R86). -/
inductive Mnemonic where
  | init
  | readBit
  | f (ty : FieldType)
  | ns
deriving DecidableEq, Repr

/-- One assembler line after its text is read: a mnemonic and at most one unsigned operand (30_encoding R86). -/
structure AsmLine where
  mnemonic : Mnemonic
  operand : Option Nat
deriving DecidableEq, Repr

end Sys2Proof
end

