-- ==== Sys2Proof/WellFormed.lean ====
section
/-! DEFINITION. Well-formedness: the field constraints a command word must meet (spec/30_encoding.md R73, R75, R77), one
named check each, and the assembler's check of its operand (R86). -/

namespace Sys2Proof

/-- `RSV` is zero (30_encoding R73). -/
def Fields.rsvZero (f : Fields) : Bool := f.rsv == 0#25

/-- `OP` names a command: 1, 2, 3 or 4 (30_encoding R71). -/
def Fields.opKnown (f : Fields) : Bool := f.op == 1#4 || f.op == 2#4 || f.op == 3#4 || f.op == 4#4

/-- `TY` is one of 0 to 5 for F and 0 for every other command (30_encoding R75). -/
def Fields.tyLegal (f : Fields) : Bool := if f.op == 3#4 then decide (f.ty ≤ 5#3) else f.ty == 0#3

/-- `OPERAND` is 0 for READ_BIT (30_encoding R75). -/
def Fields.operandLegal (f : Fields) : Bool := f.op != 2#4 || f.operand == 0#32

/-- The word with these fields is legal (30_encoding R77). -/
def Fields.wellFormed (f : Fields) : Bool := f.rsvZero && f.opKnown && f.tyLegal && f.operandLegal

/-- A command is well formed when its fields are. `F` with `n > 32` and `NS` with `n = 0` ARE well formed: they are legal
words whose execution aborts (30_encoding R74, R86). -/
def Instr.wellFormed (i : Instr) : Bool := i.fields.wellFormed

/-- The assembler takes a line whose operand is present exactly where the mnemonic has one and fits in 32 bits
(30_encoding R86). -/
def AsmLine.wellFormed (l : AsmLine) : Bool :=
  match l.mnemonic, l.operand with
  | .readBit, none => true
  | .readBit, some _ => false
  | _, none => false
  | _, some n => decide (n < 2 ^ 32)

end Sys2Proof
end

