-- ==== Sys2Proof/Decode.lean ====
section
/-! DEFINITION. The decoder, total on all 2^64 words and rejecting by name (spec/30_encoding.md R76, R77), the encoder
(R85), the opcode map itself, and the assembler (R86). A command is a parallel 64-bit word: it has no byte order (20_memory
R58), so the decoder takes the word. -/

namespace Sys2Proof

/-- Why a word is illegal (30_encoding R77). Each of these is one cause ILLEGAL_COMMAND for the engine. -/
inductive DecodeError where
  /-- `RSV` is not zero -/
  | reservedBitsSet
  /-- `OP` is 0 or 5 to 15 -/
  | reservedOp
  /-- F with `TY` 6 or 7 -/
  | reservedType
  /-- INIT, READ_BIT or NS with `TY` not zero -/
  | typeNotZero
  /-- READ_BIT with `OPERAND` not zero -/
  | operandNotZero
deriving DecidableEq, Repr

/-- The fields of a word (30_encoding R70). -/
def splitWord (w : CmdWord) : Fields where
  op := w.extractLsb' 0 4
  ty := w.extractLsb' 4 3
  rsv := w.extractLsb' 7 25
  operand := w.extractLsb' 32 32

/-- The F command that `TY` selects (30_encoding R72). -/
def decodeType (ty : BitVec 3) (n : Word32) : Except DecodeError Instr :=
  if ty = 0#3 then .ok (.fBool n)
  else if ty = 1#3 then .ok (.fU8 n)
  else if ty = 2#3 then .ok (.fU16 n)
  else if ty = 3#3 then .ok (.fU32 n)
  else if ty = 4#3 then .ok (.fU64 n)
  else if ty = 5#3 then .ok (.fWord n)
  else .error .reservedType

/-- `Decode` over the fields of the word (30_encoding R76). -/
def decodeFields (f : Fields) : Except DecodeError Instr :=
  if f.rsv ≠ 0#25 then .error .reservedBitsSet
  else if f.op = 1#4 then if f.ty = 0#3 then .ok (.init f.operand) else .error .typeNotZero
  else if f.op = 2#4 then
    if f.ty ≠ 0#3 then .error .typeNotZero
    else if f.operand = 0#32 then .ok .readBit else .error .operandNotZero
  else if f.op = 3#4 then decodeType f.ty f.operand
  else if f.op = 4#4 then if f.ty = 0#3 then .ok (.ns f.operand) else .error .typeNotZero
  else .error .reservedOp

/-- `Decode(CMD)` (30_encoding R76): it reads nothing but the word. -/
def decode (w : CmdWord) : Except DecodeError Instr := decodeFields (splitWord w)

/-- The full word of a command, `(OPERAND << 32) | match` (30_encoding R85). -/
def commandWord (operand : Word32) (pattern : CmdWord) : CmdWord :=
  (operand.setWidth 64 <<< 32) ||| pattern

/-- The encoder, from the `match` column of the opcode map (30_encoding R85). -/
def encode : Instr → CmdWord
  | .init budget => commandWord budget 0x00000001
  | .readBit => commandWord 0 0x00000002
  | .fBool n => commandWord n 0x00000003
  | .fU8 n => commandWord n 0x00000013
  | .fU16 n => commandWord n 0x00000023
  | .fU32 n => commandWord n 0x00000033
  | .fU64 n => commandWord n 0x00000043
  | .fWord n => commandWord n 0x00000053
  | .ns n => commandWord n 0x00000004

/-- A row of the opcode map: its `match` and its `mask` (30_encoding R85). -/
structure OpcodeRow where
  pattern : CmdWord
  mask : CmdWord
deriving DecidableEq, Repr

/-- A word is the command of a row when `(CMD AND mask) = match` (30_encoding R85). -/
def OpcodeRow.holds (r : OpcodeRow) (w : CmdWord) : Bool := (w &&& r.mask) == r.pattern

/-- The nine rows of the opcode map, in its order (30_encoding R85). -/
def opcodeRows : List OpcodeRow :=
  [⟨0x00000001, 0x00000000FFFFFFFF⟩, ⟨0x00000002, 0xFFFFFFFFFFFFFFFF⟩, ⟨0x00000003, 0x00000000FFFFFFFF⟩,
    ⟨0x00000013, 0x00000000FFFFFFFF⟩, ⟨0x00000023, 0x00000000FFFFFFFF⟩, ⟨0x00000033, 0x00000000FFFFFFFF⟩,
    ⟨0x00000043, 0x00000000FFFFFFFF⟩, ⟨0x00000053, 0x00000000FFFFFFFF⟩, ⟨0x00000004, 0x00000000FFFFFFFF⟩]

/-- The word that the host's number `w` stands for: its low `nbits` bits, every bit above them 0 (log 16). -/
def tableWord (nbits w : Nat) : CmdWord := BitVec.ofNat 64 (w % 2 ^ nbits)

/-- What the decoder reads from the host's number of an instruction (none where it refuses). -/
def decodeTableWord (nbits w : Nat) : Option Instr := (decode (tableWord nbits w)).toOption

/-! The assembler (30_encoding R86). -/

/-- Why the assembler refuses a line (30_encoding R86). -/
inductive AsmError where
  /-- the first word of the line is no mnemonic -/
  | unknownMnemonic
  /-- the operand is no unsigned decimal or `0x` hexadecimal integer -/
  | badNumber
  /-- more than one operand, one where there is none, or none where there is one -/
  | wrongOperandCount
  /-- the operand does not fit in 32 bits -/
  | operandTooWide
deriving DecidableEq, Repr

/-- The command of an assembler line whose operand is `n` (30_encoding R86). -/
def Mnemonic.command (m : Mnemonic) (n : Word32) : Instr :=
  match m with
  | .init => .init n
  | .readBit => .readBit
  | .f ty => ty.command n
  | .ns => .ns n

/-- The assembler emits `(operand << 32) | match` and refuses an operand that does not fit in 32 bits; it does not refuse
`f.* 33` or `ns 0` (30_encoding R86). -/
def assemble (l : AsmLine) : Except AsmError CmdWord :=
  match l.mnemonic, l.operand with
  | .readBit, none => .ok (encode .readBit)
  | .readBit, some _ => .error .wrongOperandCount
  | _, none => .error .wrongOperandCount
  | m, some n => if n < 2 ^ 32 then .ok (encode (m.command (BitVec.ofNat 32 n))) else .error .operandTooWide

/-- The value of a digit in base 16 (log 14: both letter cases). -/
def digitValue (c : Char) : Option Nat :=
  if '0' ≤ c ∧ c ≤ '9' then some (c.toNat - 48)
  else if 'A' ≤ c ∧ c ≤ 'F' then some (c.toNat - 55)
  else if 'a' ≤ c ∧ c ≤ 'f' then some (c.toNat - 87)
  else none

/-- The number that digits in a base spell, after the value `v` read so far. -/
def readDigits (base v : Nat) : List Char → Option Nat
  | [] => some v
  | c :: cs =>
    match digitValue c with
    | some d => if d < base then readDigits base (base * v + d) cs else none
    | none => none

/-- An unsigned decimal or `0x` hexadecimal integer (30_encoding R86). -/
def readNumber : List Char → Option Nat
  | [] => none
  | ['0', 'x'] => none
  | '0' :: 'x' :: ds => readDigits 16 0 ds
  | ds => readDigits 10 0 ds

/-- The mnemonic a word spells (30_encoding R86). -/
def readMnemonic : List Char → Option Mnemonic
  | ['i', 'n', 'i', 't'] => some .init
  | ['r', 'e', 'a', 'd', '_', 'b', 'i', 't'] => some .readBit
  | ['f', '.', 'b', 'o', 'o', 'l'] => some (.f .bool)
  | ['f', '.', 'u', '8'] => some (.f .u8)
  | ['f', '.', 'u', '1', '6'] => some (.f .u16)
  | ['f', '.', 'u', '3', '2'] => some (.f .u32)
  | ['f', '.', 'u', '6', '4'] => some (.f .u64)
  | ['f', '.', 'w', 'o', 'r', 'd'] => some (.f .word)
  | ['n', 's'] => some .ns
  | _ => none

/-- The words of a line up to its comment: `;` starts a comment, spaces and tabs part words (30_encoding R86, log 14). The
second argument is the word being read, last character first. -/
def lineWords : List Char → List Char → List (List Char)
  | [], cur => if cur = [] then [] else [cur.reverse]
  | c :: cs, cur =>
    if c = ';' then (if cur = [] then [] else [cur.reverse])
    else if c = ' ' ∨ c = '\t' then (if cur = [] then lineWords cs [] else cur.reverse :: lineWords cs [])
    else lineWords cs (c :: cur)

/-- The assembler on one line of text: the word of its command (30_encoding R86). R86 is silent on a blank or comment-only
line; that it is accepted and gives no word is the model's choice (DESIGN CHOICE, log 14). -/
def assembleText (line : List Char) : Except AsmError (Option CmdWord) :=
  match lineWords line [] with
  | [] => .ok none
  | mn :: rest =>
    match readMnemonic mn, rest with
    | none, _ => .error .unknownMnemonic
    | some m, [] => (assemble ⟨m, none⟩).map some
    | some m, [d] =>
      match readNumber d with
      | some n => (assemble ⟨m, some n⟩).map some
      | none => .error .badNumber
    | some _, _ :: _ :: _ => .error .wrongOperandCount

end Sys2Proof
end

