-- ==== Sys2Proof/Machine/State.lean ====
section
/-! DEFINITION. The state of BSR (spec/10_state.md): every element of R22 to R33 and R41, the place a waiting command has
reached, and the run around the engine (the host's actions, the source's events, the observation of 70_reset R252). Plain
data throughout. BSR has no memory (20_memory R50), so State holds none (log 17). -/

namespace Sys2Proof.Machine

/-- `ENGINE_STATE` (10_state R31). -/
inductive EngineState where
  /-- no command in progress -/
  | idle
  /-- a command is executing -/
  | exec
  /-- a command waits for the answer to an outstanding pull -/
  | waitSrc
  /-- an abort has occurred; left only by reset -/
  | halted
deriving DecidableEq, Repr

/-- The status of a response (60_exceptions R201; code 3 is never produced). -/
inductive Status where
  | ok
  | endOfBudget
  | sourceExhausted
deriving DecidableEq, Repr

/-- The 2-bit `RSP_STATUS` code (60_exceptions R201). -/
def Status.code : Status → BitVec 2
  | .ok => 0#2
  | .endOfBudget => 1#2
  | .sourceExhausted => 2#2

/-- The causes of an abort (60_exceptions R202; 0 is NONE, 5 to 15 are never held). -/
inductive AbortCause where
  | illegalCommand
  | notInitialised
  | fWidth
  | nsZero
deriving DecidableEq, Repr

/-- The 4-bit `FAULT_CAUSE` code (60_exceptions R202). -/
def AbortCause.code : AbortCause → BitVec 4
  | .illegalCommand => 1#4
  | .notInitialised => 2#4
  | .fWidth => 3#4
  | .nsZero => 4#4

/-- The answer to a pull, classified (20_memory R52). -/
inductive PullResult where
  | byte (b : Byte)
  | short
  | fail
deriving DecidableEq, Repr

/-- What happens on the source port, in order (30_encoding R82, log 9). -/
inductive SrcEvent where
  /-- `src_req_ready = 1`: the source accepts a request if one is offered -/
  | ready
  /-- `src_rsp_valid = 1`, with `src_rsp_err`, `src_rsp_count` and `src_rsp_byte` -/
  | answer (err : Bool) (count : BitVec 1) (byte : Byte)
  /-- neither, for a while: a pull goes on waiting and the other agents may move (the model's own, log 9) -/
  | quiet
deriving DecidableEq, Repr

/-- What the host sends (70_reset R253: it can do nothing else to a running engine). -/
inductive HostAction where
  /-- `rst` rises and is 1 on one edge; each further one that follows at once holds it for one edge more (70_reset R240) -/
  | reset
  /-- a word on `cmd_data` with `cmd_valid`, held until the transfer -/
  | command (w : CmdWord)
  /-- `rsp_ready = 1` -/
  | takeResponse
deriving DecidableEq, Repr

/-- One response, `(status, value)` (30_encoding R79). -/
structure Response where
  status : BitVec 2
  value : Value
deriving DecidableEq, Repr

/-- The place in its pseudocode that a waiting command has reached (log 4): each counts the bits of its FieldRead that are
still to be read, the one it waits for included. -/
inductive Job where
  /-- in the one BitRead of READ_BIT (41_bit_read R116) -/
  | readBit
  /-- in the FieldRead of an F command (42_field_read R129) -/
  | field (ty : FieldType) (left : Nat)
  /-- in the first FieldRead of NS (43_ns_decode R141) -/
  | nsFirst (left : Nat)
  /-- in the second FieldRead of NS, of one bit (43_ns_decode R141) -/
  | nsExtra
deriving DecidableEq, Repr

/-- The state of the machine. -/
structure State where
  /-- `CUR_BYTE`, the last byte pulled (10_state R22) -/
  curByte : Byte
  /-- `BITS_LEFT`, the bits of `CUR_BYTE` not yet consumed (10_state R23) -/
  bitsLeft : BitVec 4
  /-- `BUDGET`, the bytes that may still be pulled (10_state R25) -/
  budget : Word32
  /-- `INIT_DONE` (10_state R27) -/
  initDone : Bool
  /-- `FAULT`, sticky (10_state R28) -/
  fault : Bool
  /-- `FAULT_CAUSE` (10_state R28) -/
  faultCause : BitVec 4
  /-- `ACC`, the bitfield accumulator (10_state R29) -/
  acc : Word32
  /-- `W`, a temporary of NS (10_state R30) -/
  nsW : BitVec 6
  /-- `M`, a temporary of NS (10_state R30) -/
  nsM : BitVec 33
  /-- `V`, a temporary of NS (10_state R30) -/
  nsV : Word32
  /-- `ENGINE_STATE` (10_state R31) -/
  engineState : EngineState
  /-- `RSP_PENDING` (10_state R32) -/
  rspPending : Bool
  /-- `RSP_STATUS` (10_state R32) -/
  rspStatus : BitVec 2
  /-- `RSP_VALUE` (10_state R32) -/
  rspValue : Value
  /-- `SRC_OUTSTANDING` (10_state R33) -/
  srcOutstanding : Bool
  /-- `CMD`, the command latch (10_state R41) -/
  cmd : CmdWord
  /-- where a command that waits for the source has got to; none at rest (the model's own, log 4) -/
  job : Option Job
  /-- the input `rst` (30_encoding R81; a port, not engine state, log 13) -/
  rst : Bool
  /-- what the host will still do, in order (00_scope R5, 70_reset R253; not engine state, log 1) -/
  host : List HostAction
  /-- what will still happen on the source port, in order (20_memory R68; not engine state, log 1) -/
  source : List SrcEvent
  /-- the position in the host's command list, which stands in for a program counter (10_state R21; not engine state) -/
  cmdIndex : Nat
  /-- the responses the host has taken, in order (70_reset R252, an observation; log 12) -/
  rspLog : List Response
  /-- the pulls with their answers, in order (70_reset R252, an observation; log 12) -/
  pullLog : List PullResult
deriving DecidableEq, Repr

/-- Why a step stops the machine. -/
inductive Fault where
  /-- Raised by `step` alone, in a HALTED engine that no reset reaches: the run ends in a fault (60_exceptions R206, R219,
  70_reset R252). No command raises it: the abort itself is a next state. Safe: nothing would change (log 5). -/
  | halted (cause : BitVec 4)
deriving DecidableEq, Repr

/-- Why an instruction has no meaning. -/
inductive Refusal where
  /-- The arm of an instruction that is not modelled yet. No arm raises it now. Safe. -/
  | notModelled (mnemonic : String)
deriving DecidableEq, Repr

/-- The machine right after reset (10_state R37). `ACC`, `W`, `M` and `V` are unspecified there and 0 here (DESIGN CHOICE,
unsafe, log 7). `rst` is 0 again (log 13). The run around the engine is empty: a program comes to run when it is placed in
`host` (log 2). -/
def State.reset : State where
  curByte := 0#8
  bitsLeft := 0#4
  budget := 0#32
  initDone := false
  fault := false
  faultCause := 0#4
  acc := 0#32
  nsW := 0#6
  nsM := 0#33
  nsV := 0#32
  engineState := .idle
  rspPending := false
  rspStatus := 0#2
  rspValue := 0#64
  srcOutstanding := false
  cmd := 0#64
  job := none
  rst := false
  host := []
  source := []
  cmdIndex := 0
  rspLog := []
  pullLog := []

end Sys2Proof.Machine
end

