-- ==== Sys2Proof/Machine/Flags.lean ====
section
/-! DEFINITION. BSR has no condition codes (spec/10_state.md R34). What the outside sees of its state: the outputs of the
ports (30_encoding R81 to R83) and the status view STAT (10_state R35), each a function of the state. -/

namespace Sys2Proof.Machine

/-- `rst = 1` (30_encoding R81, 70_reset R240). -/
def rstAsserted (s : State) : Bool := s.rst

/-- The host's next action is a reset: it raises `rst`, or holds it for one edge more (70_reset R253). -/
def resetDue (s : State) : Bool :=
  match s.host with
  | .reset :: _ => true
  | _ => false

/-- `BUSY`: a command is in progress (10_state R35). -/
def busy (s : State) : Bool := s.engineState == .exec || s.engineState == .waitSrc

/-- `cmd_ready` (30_encoding R81). -/
def cmdReady (s : State) : Bool :=
  s.engineState == .idle && !s.rspPending && !s.fault && !rstAsserted s

/-- `rsp_valid`: equal to `RSP_PENDING` (30_encoding R81), 0 while `rst = 1` (70_reset R242). -/
def rspValid (s : State) : Bool := s.rspPending && !rstAsserted s

/-- `rsp_status` (30_encoding R81). -/
def rspStatusOut (s : State) : BitVec 2 := s.rspStatus

/-- `rsp_value` (30_encoding R81). -/
def rspValueOut (s : State) : Value := s.rspValue

/-- `src_req_valid`: a command waits for the source to accept its pull request (30_encoding R82); 0 while `rst = 1`
(70_reset R242). -/
def srcReqValid (s : State) : Bool :=
  s.engineState == .exec && s.job.isSome && !s.srcOutstanding && !rstAsserted s

/-- `abort`: equal to `FAULT` (30_encoding R83), 0 while `rst = 1` (70_reset R242). -/
def abortOut (s : State) : Bool := s.fault && !rstAsserted s

/-- `STAT`, the 64-bit status view, bits 63:52 hardwired 0 (10_state R35). Reading it changes nothing. While BUSY it shows
the live elements where the command waits (R36, log 11). -/
def statView (s : State) : BitVec 64 :=
  0#12 ++ BitVec.ofBool s.rspPending ++ BitVec.ofBool (busy s) ++ s.faultCause ++ BitVec.ofBool s.fault ++
    BitVec.ofBool s.initDone ++ s.curByte ++ s.bitsLeft ++ s.budget

/-- `stat`: it carries `STAT` (30_encoding R83), and 0 while `rst = 1` (70_reset R242). -/
def stat (s : State) : BitVec 64 := if rstAsserted s then 0#64 else statView s

end Sys2Proof.Machine
end

