-- ==== Sys2Proof/Machine/Operands.lean ====
section
/-! DEFINITION. What commands compute from their operands and from the accumulator: the widths (spec/30_encoding.md R74,
R78), the narrowing unit (42_field_read R124) and the quantities of the non-symmetric code (43_ns_decode R140, R141). -/

namespace Sys2Proof.Machine

/-- The precondition of F, `n <= 32`, fails (42_field_read R122). -/
def widthTooLarge (n : Word32) : Bool := decide (Config.maxFieldWidth < n.toNat)

/-- The precondition of NS, `n >= 1`, fails (43_ns_decode R144). -/
def alphabetEmpty (n : Word32) : Bool := n == 0#32

/-- `Narrow(ty, acc)`: the accumulator as a value of the result type, zero-extended to 64 bits (42_field_read R124). Where
the field is wider than the type, only the low bits are kept and nothing reports it (R125); BOOL is "nonzero" (R126). -/
def narrow (wb : WordBits) (ty : FieldType) (acc : Word32) : Value :=
  match ty with
  | .bool => if acc = 0#32 then 0#64 else 1#64
  | .u8 => (acc.extractLsb' 0 8).setWidth 64
  | .u16 => (acc.extractLsb' 0 16).setWidth 64
  | .u32 => acc.setWidth 64
  | .u64 => acc.setWidth 64
  | .word => BitVec.ofNat 64 (acc.toNat % 2 ^ wb.bits)

/-- The index of the highest set bit of `x` at or below bit `k`; 0 where there is none. -/
def highestBitBelow (x : Word32) : Nat → Nat
  | 0 => 0
  | k + 1 => if x.getLsbD (k + 1) then k + 1 else highestBitBelow x k

/-- `floor_log2(x)` for `x > 0`: the index of the highest set bit (43_ns_decode R140). The spec does not define it at 0 and
no command evaluates it there (R144, log 20). -/
def floorLog2 (x : Word32) : Nat := highestBitBelow x 31

/-- `W = floor_log2(n) + 1` (43_ns_decode R141). -/
def nsWidth (n : Word32) : Nat := floorLog2 n + 1

/-- `M = 2^W - n`, the number of short codewords, exact (43_ns_decode R141, R143). -/
def nsShort (n : Word32) : Nat := 2 ^ nsWidth n - n.toNat

/-- The value of a long codeword, `2*V - M + extra`, exact on naturals (43_ns_decode R141, R143). -/
def nsLong (v : Word32) (m : BitVec 33) (extra : Word32) : Value :=
  BitVec.ofNat 64 (2 * v.toNat - m.toNat + extra.toNat)

end Sys2Proof.Machine
end

