-- ==== Sys2Proof/Machine/Ops.lean ====
section
/-! DEFINITION. The operations the commands share: named updates of the state, the source pull (spec/20_memory.md R52), the
BitRead (41_bit_read R110) and FieldRead (42_field_read R120) primitives, the response (40_control R103), TAKING AN ABORT
(60_exceptions R205) and reset, the only way back from one (70_reset R240). -/

namespace Sys2Proof.Machine

/-! The command cycle: accept, respond, abort, take the response, reset. -/

/-- A command transfer: `CMD <- cmd_data`, `ENGINE_STATE <- EXEC`, the next command-list position (40_control R101). -/
def latchCommand (w : CmdWord) (s : State) : State :=
  { s with cmd := w, engineState := .exec, cmdIndex := s.cmdIndex + 1, host := s.host.tail }

/-- `respond(status, value)` (40_control R103): the response slot, `RSP_PENDING <- 1`, back to IDLE. -/
def respond (st : Status) (v : Value) (s : State) : State :=
  { s with rspStatus := st.code, rspValue := v, rspPending := true, engineState := .idle, job := none }

/-- `raise Abort(cause)` (60_exceptions R205): `FAULT <- 1`, `FAULT_CAUSE <- cause`, `ENGINE_STATE <- HALTED`, no response
and nothing else. -/
def raiseAbort (c : AbortCause) (s : State) : State :=
  { s with fault := true, faultCause := c.code, engineState := .halted }

/-- The host raises `rsp_ready`: where a response is pending the transfer takes it and clears `RSP_PENDING` (30_encoding
R81), else nothing is transferred (log 10). -/
def takeResponse (s : State) : State :=
  if s.rspPending then
    { s with rspPending := false, rspLog := s.rspLog ++ [⟨s.rspStatus, s.rspValue⟩], host := s.host.tail }
  else { s with host := s.host.tail }

/-- The host raises `rst`, at any time (70_reset R253). `rst` is synchronous: until the edge no state element changes, and the
outputs are those of R242. -/
def raiseRst (s : State) : State := { s with rst := true, host := s.host.tail }

/-- An edge with `rst = 1`: every state element takes its reset value; a command in progress, a pending response and an
outstanding pull are abandoned (70_reset R240, R241). `rst` falls after it unless the host holds it. What the host and the
source will still do, and what the run has shown so far, are no state elements (log 13). -/
def engineReset (s : State) : State :=
  { State.reset with rst := resetDue s, host := if resetDue s then s.host.tail else s.host, source := s.source,
                     cmdIndex := s.cmdIndex, rspLog := s.rspLog, pullLog := s.pullLog }

/-- A command waits for the source at place `j` (10_state R31, log 4). -/
def suspend (j : Job) (s : State) : State := { s with job := some j }

/-! The source port. -/

/-- The classification of a source answer (20_memory R52): a failure wins over a count of 1. -/
def classify (err : Bool) (count : BitVec 1) (b : Byte) : PullResult :=
  if err then .fail else if count = 1#1 then .byte b else .short

/-- Where a pull stands after the events on the source port: answered (`some`) or still waiting, whether it is outstanding,
and the events to come. -/
structure PullOutcome where
  answer : Option PullResult
  outstanding : Bool
  rest : List SrcEvent
deriving DecidableEq, Repr

/-- A pull on the source port (30_encoding R82): the request waits for `ready`, then the answer is taken. An answer while no
pull is outstanding is ignored (70_reset R247); `ready` while one is outstanding transfers nothing. Where the events end, or
fall quiet, the pull waits (70_reset R246). -/
def pullFrom (outstanding : Bool) : List SrcEvent → PullOutcome
  | [] => ⟨none, outstanding, []⟩
  | .quiet :: es => ⟨none, outstanding, es⟩
  | .ready :: es => pullFrom true es
  | .answer e c b :: es => if outstanding then ⟨some (classify e c b), false, es⟩ else pullFrom outstanding es

/-- The pull has been answered: `SRC_OUTSTANDING` is 0 and the engine is back in EXEC (30_encoding R82). -/
def pullAnswered (r : PullResult) (rest : List SrcEvent) (s : State) : State :=
  { s with source := rest, srcOutstanding := false, engineState := .exec, pullLog := s.pullLog ++ [r] }

/-- The pull waits: in WAIT_SRC once the source has accepted the request, in EXEC with `src_req_valid` raised before that
(30_encoding R82, 10_state R33). -/
def pullWaiting (outstanding : Bool) (rest : List SrcEvent) (s : State) : State :=
  { s with source := rest, srcOutstanding := outstanding, engineState := if outstanding then .waitSrc else .exec }

/-- `SrcPull()` (00_scope R16): one request for one byte; none while the source has not answered. A command that waits calls
it again and goes on with the same request (10_state R33). -/
def srcPull (s : State) : Option PullResult × State :=
  match pullFrom s.srcOutstanding s.source with
  | ⟨some r, _, rest⟩ => (some r, pullAnswered r rest s)
  | ⟨none, o, rest⟩ => (none, pullWaiting o rest s)

/-! BitRead. -/

/-- The result of an internal primitive: `Ok(x)`, `Err(status)` (00_scope R16), or no result while the source has not
answered (70_reset R246). -/
inductive Res (α : Type) where
  | ok (x : α)
  | err (st : Status)
  | waiting
deriving DecidableEq, Repr

/-- A successful pull stores the byte, sets `BITS_LEFT` to 8 and takes one from the budget (41_bit_read R110). -/
def storeByte (b : Byte) (s : State) : State := { s with curByte := b, bitsLeft := 8#4, budget := s.budget - 1#32 }

/-- The most significant unconsumed bit, `CUR_BYTE[BITS_LEFT - 1]` (41_bit_read R113). -/
def nextBit (s : State) : Bool := s.curByte.getLsbD (s.bitsLeft.toNat - 1)

/-- One bit is consumed; `CUR_BYTE` is not shifted (41_bit_read R113). -/
def dropBit (s : State) : State := { s with bitsLeft := s.bitsLeft - 1#4 }

/-- The delivery that ends a successful BitRead (41_bit_read R110). -/
def deliver (s : State) : Res Bool × State := (.ok (nextBit s), dropBit s)

/-- `BitRead()` (41_bit_read R110): the budget is checked before the source is asked, and a failed pull changes neither
`BUDGET` nor `BITS_LEFT` nor `CUR_BYTE` (R112). -/
def bitRead (s : State) : Res Bool × State :=
  if s.bitsLeft = 0#4 then
    if s.budget = 0#32 then (.err .endOfBudget, s)
    else
      match srcPull s with
      | (some (.byte b), t) => deliver (storeByte b t)
      | (some .short, t) => (.err .sourceExhausted, t)
      | (some .fail, t) => (.err .sourceExhausted, t)
      | (none, t) => (.waiting, t)
  else deliver s

/-! FieldRead. -/

/-- `ACC <- 0` (42_field_read R120). -/
def clearAcc (s : State) : State := { s with acc := 0#32 }

/-- `ACC <- (ACC << 1)[31:0] | zext_32(b)` (42_field_read R120). -/
def shiftIn (b : Bool) (s : State) : State := { s with acc := s.acc <<< 1 ||| bitWord 32 b }

/-- Where a FieldRead stands: `Ok(ACC)`, `Err(status)`, or waiting with this many bits still to be read. -/
inductive FieldRes where
  | ok (acc : Word32)
  | err (st : Status)
  | waiting (left : Nat)
deriving DecidableEq, Repr

/-- The loop of FieldRead with `left` bits still to be read: `FieldRead(n)` is this loop with `n` bits to read from a cleared
accumulator (42_field_read R120). The first failure ends it (R123). -/
def fieldLoop : Nat → State → FieldRes × State
  | 0, s => (.ok s.acc, s)
  | left + 1, s =>
    match bitRead s with
    | (.ok b, t) => fieldLoop left (shiftIn b t)
    | (.err st, t) => (.err st, t)
    | (.waiting, t) => (.waiting (left + 1), t)

/-! The check every command but INIT begins with. -/

/-- NOT_INITIALISED comes before every other check of the command (40_control R102, 60_exceptions R207). -/
def whenInitialised (s : State) (run : State) : State :=
  if s.initDone then run else raiseAbort .notInitialised s

/-! The host's turn. -/

/-- Which agent moves next, and how: read from the state alone (log 10). -/
inductive Turn where
  /-- an edge with `rst = 1`, which takes priority over everything (70_reset R241) -/
  | reset
  /-- the host raises `rst` -/
  | raiseRst
  /-- a command in progress goes on -/
  | resume
  /-- the engine is HALTED and no reset comes -/
  | halted
  /-- the host raises `rsp_ready` -/
  | takeResponse
  /-- a command word is transferred -/
  | accept (w : CmdWord)
  /-- nothing can happen: no action of the host is left, or it holds a command while a response is pending -/
  | wait
deriving DecidableEq, Repr

/-- The turn of a state (log 10). A command the host offers is accepted only while `cmd_ready = 1` (40_control R101). -/
def turn (s : State) : Turn :=
  if rstAsserted s then .reset
  else if resetDue s then .raiseRst
  else
    match s.engineState with
    | .exec => .resume
    | .waitSrc => .resume
    | .halted => .halted
    | .idle =>
      match s.host with
      | [] => .wait
      | .reset :: _ => .raiseRst
      | .takeResponse :: _ => .takeResponse
      | .command w :: _ => if cmdReady s then .accept w else .wait

/-- The host offers `w` next to an engine that is ready for it: what `State.withFetchWord` needs. Whatever ran is given up,
a pending response and a fault are cleared, `rst` is 0, and everything else stays (log 2). -/
def offerNext (w : CmdWord) (s : State) : State :=
  { s with host := .command w :: s.host, rst := false, engineState := .idle, job := none, srcOutstanding := false,
           rspPending := false, fault := false, faultCause := 0#4 }

end Sys2Proof.Machine
end

