-- ==== Sys2Proof/Machine/Control.lean ====
section
/-! DEFINITION. The configuration command INIT (spec/40_control.md R104), the hardware form of the reader's constructor. -/

namespace Sys2Proof.Machine

/-- What INIT writes to the reader: the budget, an empty bit cache, `INIT_DONE` (40_control R104). -/
def startReader (budget : Word32) (s : State) : State :=
  { s with budget := budget, bitsLeft := 0#4, curByte := 0#8, initDone := true }

/-- `ExecInit(budget)` (40_control R104). It is exempt from NOT_INITIALISED and makes no pull. -/
def execInit (budget : Word32) (s : State) : Host.Outcome State Fault Refusal :=
  .next (respond .ok 0#64 (startReader budget s))

end Sys2Proof.Machine
end

