-- ==== Sys2Proof/Machine/BitReader.lean ====
section
/-! DEFINITION. READ_BIT (spec/41_bit_read.md R116): one BitRead, its bit or its failure as the response. -/

namespace Sys2Proof.Machine

/-- READ_BIT from its BitRead on; a command that waits comes back here (41_bit_read R116). -/
def runReadBit (s : State) : State :=
  match bitRead s with
  | (.ok b, t) => respond .ok (bitWord 64 b) t
  | (.err st, t) => respond st 0#64 t
  | (.waiting, t) => suspend .readBit t

/-- `ExecReadBit()` (41_bit_read R116, 40_control R102). -/
def execReadBit (s : State) : Host.Outcome State Fault Refusal :=
  .next (whenInitialised s (runReadBit s))

end Sys2Proof.Machine
end

