-- ==== Sys2Proof/Machine/Field.lean ====
section
/-! DEFINITION. The six F commands (spec/42_field_read.md R129 to R135): one body, one narrowing each. -/

namespace Sys2Proof.Machine

/-- An F command with `left` bits of its field still to be read (42_field_read R129); one that waits comes back here. -/
def runField (ty : FieldType) (left : Nat) (s : State) : State :=
  match fieldLoop left s with
  | (.ok acc, t) => respond .ok (narrow Config.wordBits ty acc) t
  | (.err st, t) => respond st 0#64 t
  | (.waiting k, t) => suspend (.field ty k) t

/-- `ExecF(ty, n)` (42_field_read R129): NOT_INITIALISED, then F_WIDTH before any bit is read (R122), then the field. -/
def execField (ty : FieldType) (n : Word32) (s : State) : State :=
  whenInitialised s (if widthTooLarge n then raiseAbort .fWidth s else runField ty n.toNat (clearAcc s))

/-- F.BOOL (42_field_read R130). -/
def execFBool (n : Word32) (s : State) : Host.Outcome State Fault Refusal := .next (execField .bool n s)

/-- F.U8 (42_field_read R131). -/
def execFU8 (n : Word32) (s : State) : Host.Outcome State Fault Refusal := .next (execField .u8 n s)

/-- F.U16 (42_field_read R132). -/
def execFU16 (n : Word32) (s : State) : Host.Outcome State Fault Refusal := .next (execField .u16 n s)

/-- F.U32 (42_field_read R133). -/
def execFU32 (n : Word32) (s : State) : Host.Outcome State Fault Refusal := .next (execField .u32 n s)

/-- F.U64 (42_field_read R134). -/
def execFU64 (n : Word32) (s : State) : Host.Outcome State Fault Refusal := .next (execField .u64 n s)

/-- F.WORD (42_field_read R135): the width of the platform word is `Config.wordBits`. -/
def execFWord (n : Word32) (s : State) : Host.Outcome State Fault Refusal := .next (execField .word n s)

end Sys2Proof.Machine
end

