-- ==== Sys2Proof/Machine/Ns.lean ====
section
/-! DEFINITION. NS, the non-symmetric value decode (spec/43_ns_decode.md R141, R145). -/

namespace Sys2Proof.Machine

/-- `W <- floor_log2(n) + 1` and `M <- 2^W - n` (43_ns_decode R141). -/
def setNsParams (n : Word32) (s : State) : State :=
  { s with nsW := BitVec.ofNat 6 (nsWidth n), nsM := BitVec.ofNat 33 (nsShort n) }

/-- `V <- FieldRead(W - 1)?`, the write (43_ns_decode R141). -/
def setNsV (v : Word32) (s : State) : State := { s with nsV := v }

/-- NS with the extra bit of a long code still to be read (43_ns_decode R141); one that waits comes back here. -/
def runNsExtra (s : State) : State :=
  match fieldLoop 1 s with
  | (.ok extra, t) => respond .ok (nsLong t.nsV t.nsM extra) t
  | (.err st, t) => respond st 0#64 t
  | (.waiting _, t) => suspend .nsExtra t

/-- NS after its first field: the short code answers `V`, the long one reads one bit more (43_ns_decode R141). -/
def afterNsFirst (s : State) : State :=
  if s.nsV.toNat < s.nsM.toNat then respond .ok (s.nsV.setWidth 64) s else runNsExtra (clearAcc s)

/-- NS with `left` bits of its first field still to be read (43_ns_decode R141); one that waits comes back here. -/
def runNsFirst (left : Nat) (s : State) : State :=
  match fieldLoop left s with
  | (.ok v, t) => afterNsFirst (setNsV v t)
  | (.err st, t) => respond st 0#64 t
  | (.waiting k, t) => suspend (.nsFirst k) t

/-- `ExecNs(n)` (43_ns_decode R145): NOT_INITIALISED, then NS_ZERO before any bit is read (R144), then the codeword. -/
def runNs (n : Word32) (s : State) : State :=
  whenInitialised s
    (if alphabetEmpty n then raiseAbort .nsZero s else runNsFirst (nsWidth n - 1) (clearAcc (setNsParams n s)))

/-- NS (43_ns_decode R145). -/
def execNs (n : Word32) (s : State) : Host.Outcome State Fault Refusal := .next (runNs n s)

end Sys2Proof.Machine
end

