-- ==== Sys2Proof/Machine/Resume.lean ====
section
/-! DEFINITION. A command that waits for the source goes on where it stands (spec/10_state.md R31, 70_reset R246). -/

namespace Sys2Proof.Machine

/-- The command in progress goes on with what the source port has shown since: it ends, or waits again (log 4). -/
def resume (s : State) : State :=
  match s.job with
  | none => s
  | some .readBit => runReadBit s
  | some (.field ty left) => runField ty left s
  | some (.nsFirst left) => runNsFirst left s
  | some .nsExtra => runNsExtra s

end Sys2Proof.Machine
end

