-- ==== Sys2Proof/Machine/Dispatch.lean ====
section
/-! DEFINITION. The meaning of each command, one arm per constructor of Instr (spec/40_control.md R102, `Execute`). -/

namespace Sys2Proof.Machine

def exec (i : Instr) (s : State) : Host.Outcome State Fault Refusal :=
  match i with
  | .init budget => Sys2Proof.Machine.execInit budget s
  | .readBit => Sys2Proof.Machine.execReadBit s
  | .fBool n => Sys2Proof.Machine.execFBool n s
  | .fU8 n => Sys2Proof.Machine.execFU8 n s
  | .fU16 n => Sys2Proof.Machine.execFU16 n s
  | .fU32 n => Sys2Proof.Machine.execFU32 n s
  | .fU64 n => Sys2Proof.Machine.execFU64 n s
  | .fWord n => Sys2Proof.Machine.execFWord n s
  | .ns n => Sys2Proof.Machine.execNs n s

end Sys2Proof.Machine
end

