-- ==== Sys2Proof/Machine/Cycle.lean ====
section
/-! DEFINITION. The command cycle around `exec` (spec/40_control.md R101, R102) and what each turn does: what `step` calls. -/

namespace Sys2Proof.Machine

/-- A command word is transferred and executed (40_control R101, R102): an illegal one aborts with ILLEGAL_COMMAND
(30_encoding R76), a legal one runs its command. -/
def acceptCommand (w : CmdWord) (s : State) : Host.Outcome State Fault Refusal :=
  match decode w with
  | .ok i => exec i (latchCommand w s)
  | .error _ => .next (raiseAbort .illegalCommand (latchCommand w s))

/-- What a turn does: reset, `rst` raised, a command in progress going on, a response taken, a command accepted and run, nothing
(a hang is not a fault, 70_reset R245; log 6), or the stop of a HALTED engine (60_exceptions R219; log 5). -/
def takeTurn (t : Turn) (s : State) : Host.Outcome State Fault Refusal :=
  match t with
  | .reset => .next (engineReset s)
  | .raiseRst => .next (raiseRst s)
  | .resume => .next (resume s)
  | .halted => .fault (.halted s.faultCause)
  | .takeResponse => .next (takeResponse s)
  | .accept w => acceptCommand w s
  | .wait => .next s

/-- The instruction with the host's number `w` placed as the next command (log 2, log 16). -/
def placeTableWord (s : State) (nbits w : Nat) : State := offerNext (tableWord nbits w) s

end Sys2Proof.Machine
end

