-- ==== Sys2Proof/Machine/Step.lean ====
section
/-! DEFINITION. One step of the machine: the next event of the run (spec/70_reset_and_hazards.md R252, R253; log 3). -/

namespace Sys2Proof.Machine

/-- One step: the turn that the state gives, taken. -/
def step (s : State) : Host.Outcome State Fault Refusal := takeTurn (turn s) s

/-- `s` with the instruction whose bits are `w` as the host's next command, the engine ready to accept it (log 2). -/
def State.withFetchWord (s : State) (nbits w : Nat) : State := placeTableWord s nbits w

end Sys2Proof.Machine
end

