-- ==== Sys2Proof/Safety.lean ====
section
/-! DEFINITION. The terms claims about BSR use: the bit stream a state can still deliver, the value of a bit string
(spec/20_memory.md R57), the code that NS decodes (43_ns_decode R148), the invariants of the engine, what a command leaves
alone, and the ends of a run (70_reset R252). -/

namespace Sys2Proof.Machine

/-! Bit strings, in stream order (00_scope R14). -/

/-- The value of bits `b_1 ... b_n` in stream order: the sum of `b_i * 2^(n-i)` (20_memory R57). -/
def bitsValue : List Bool → Nat
  | [] => 0
  | b :: bs => b.toNat * 2 ^ bs.length + bitsValue bs

/-- `x` written as `k` bits, MSB first. -/
def bitsOf : Nat → Nat → List Bool
  | 0, _ => []
  | k + 1, x => x.testBit k :: bitsOf k x

/-- The codeword of `x` in the alphabet `[0, n)`, from the companion encoder, which is no part of BSR (43_ns_decode R148). -/
def nsCode (n : Word32) (x : Nat) : List Bool :=
  if x < nsShort n then bitsOf (nsWidth n - 1) x
  else bitsOf (nsWidth n - 1) ((x + nsShort n) / 2) ++ [decide ((x + nsShort n) % 2 = 1)]

/-! The stream a state can still deliver. -/

/-- The low `k` bits of a byte, most significant first: what a bit cache with `BITS_LEFT = k` still holds (10_state R23). -/
def cachedBits (b : Byte) : Nat → List Bool
  | 0 => []
  | k + 1 => b.getLsbD k :: cachedBits b k

/-- The bytes that successive pulls get from these source events before one fails, waits or is out of budget. -/
def sourceBytes : Bool → Nat → List SrcEvent → List Byte
  | _, 0, _ => []
  | _, _ + 1, [] => []
  | _, _ + 1, .quiet :: _ => []
  | _, k + 1, .ready :: es => sourceBytes true (k + 1) es
  | false, k + 1, .answer _ _ _ :: es => sourceBytes false (k + 1) es
  | true, k + 1, .answer e c b :: es =>
    match classify e c b with
    | .byte x => x :: sourceBytes false k es
    | .short => []
    | .fail => []

/-- What the pulls of `sourceBytes`, and the one that fails or waits after them, leave of the source port: whether a pull is
outstanding, and the events to come. -/
def sourceLeft : Bool → Nat → List SrcEvent → Bool × List SrcEvent
  | o, 0, es => (o, es)
  | o, _ + 1, [] => (o, [])
  | o, _ + 1, .quiet :: es => (o, es)
  | _, k + 1, .ready :: es => sourceLeft true (k + 1) es
  | false, k + 1, .answer _ _ _ :: es => sourceLeft false (k + 1) es
  | true, k + 1, .answer e c b :: es =>
    match classify e c b with
    | .byte _ => sourceLeft false k es
    | .short => (false, es)
    | .fail => (false, es)

/-- What ends the stream. -/
inductive StreamEnd where
  /-- the budget is used up: the next bit request fails with END_OF_BUDGET (41_bit_read R111) -/
  | outOfBudget
  /-- a pull is answered `Short` or `Fail`: SOURCE_EXHAUSTED (41_bit_read R112) -/
  | failed
  /-- a pull is not answered: the command waits (70_reset R246) -/
  | waits
deriving DecidableEq, Repr

/-- What the pull after those of `sourceBytes` meets. -/
def sourceEnd : Bool → Nat → List SrcEvent → StreamEnd
  | _, 0, _ => .outOfBudget
  | _, _ + 1, [] => .waits
  | _, _ + 1, .quiet :: _ => .waits
  | _, k + 1, .ready :: es => sourceEnd true (k + 1) es
  | false, k + 1, .answer _ _ _ :: es => sourceEnd false (k + 1) es
  | true, k + 1, .answer e c b :: es =>
    match classify e c b with
    | .byte _ => sourceEnd false k es
    | .short => .failed
    | .fail => .failed

/-- The bits a state delivers to successive bit requests: those in the cache, then those of the bytes it can pull, each byte
most significant bit first (20_memory R56). -/
def State.stream (s : State) : List Bool :=
  cachedBits s.curByte s.bitsLeft.toNat ++
    (sourceBytes s.srcOutstanding s.budget.toNat s.source).flatMap (cachedBits · 8)

/-- What the bit request after the last bit of `stream` meets. -/
def State.streamEnd (s : State) : StreamEnd := sourceEnd s.srcOutstanding s.budget.toNat s.source

/-- The bytes among pull results. -/
def pulledBytes : List PullResult → List Byte
  | [] => []
  | .byte b :: rs => b :: pulledBytes rs
  | .short :: rs => pulledBytes rs
  | .fail :: rs => pulledBytes rs

/-! Invariants. -/

/-- What the registers of the engine keep to in every state a run reaches. -/
structure State.Inv (s : State) : Prop where
  /-- `BITS_LEFT` is 0 to 7 between events; 8 exists only inside a BitRead (10_state R24) -/
  bitsLeft_le : s.bitsLeft.toNat ≤ 7
  /-- `FAULT_CAUSE` 5 to 15 are never held (10_state R35, 60_exceptions R202) -/
  faultCause_le : s.faultCause.toNat ≤ 4
  /-- status 3 is never produced (60_exceptions R201) -/
  rspStatus_ne : s.rspStatus ≠ 3#2
  /-- `FAULT` and HALTED go together (60_exceptions R205, R206) -/
  fault_iff : s.fault = true ↔ s.engineState = .halted
  /-- `FAULT_CAUSE` is NONE exactly while `FAULT = 0` (60_exceptions R202) -/
  cause_iff : s.faultCause = 0#4 ↔ s.fault = false
  /-- a response is pending only at rest: none is left by an abort (60_exceptions R205) or while a command runs -/
  pending_idle : s.rspPending = true → s.engineState = .idle
  /-- a pull is outstanding exactly in WAIT_SRC (30_encoding R82) -/
  outstanding_iff : s.srcOutstanding = true ↔ s.engineState = .waitSrc
  /-- a command is in progress exactly while BUSY -/
  job_iff : s.job.isSome = true ↔ busy s = true
  /-- a command waits only for a pull it may make (20_memory R53) -/
  busy_pulls : busy s = true → s.initDone = true ∧ s.bitsLeft = 0#4 ∧ s.budget ≠ 0#32
  /-- before INIT the reader is as reset leaves it (10_state R27, R37) -/
  uninit : s.initDone = false → s.budget = 0#32 ∧ s.bitsLeft = 0#4 ∧ s.curByte = 0#8
  /-- a failing response carries the value 0 (30_encoding R79) -/
  failed_value : s.rspStatus ≠ 0#2 → s.rspValue = 0#64

/-- What a waiting command's place, accumulator and temporaries keep to (10_state R30, 42_field_read R128,
43_ns_decode R142). -/
def State.JobInv (s : State) : Prop :=
  match s.job with
  | none => True
  | some .readBit => True
  | some (.field _ left) => 1 ≤ left ∧ left ≤ 32 ∧ s.acc.toNat < 2 ^ (32 - left)
  | some (.nsFirst left) =>
    1 ≤ left ∧ left + 1 ≤ s.nsW.toNat ∧ s.nsW.toNat ≤ 32 ∧ s.acc.toNat < 2 ^ (s.nsW.toNat - 1 - left) ∧
      1 ≤ s.nsM.toNat ∧ s.nsM.toNat ≤ 2 ^ (s.nsW.toNat - 1)
  | some .nsExtra =>
    1 ≤ s.nsW.toNat ∧ s.nsW.toNat ≤ 32 ∧ s.acc = 0#32 ∧ 1 ≤ s.nsM.toNat ∧ s.nsM.toNat ≤ s.nsV.toNat ∧
      s.nsV.toNat < 2 ^ (s.nsW.toNat - 1)

/-! Frames and outcomes of commands. -/

/-- What no command but INIT, and no abort, writes: `INIT_DONE`, `FAULT`, `FAULT_CAUSE`, the command latch, `rst`, and the run
around the engine but for the source port (10_state R27, R28, R34, R41, 60_exceptions R209). -/
def sameAround (s t : State) : Prop :=
  t.initDone = s.initDone ∧ t.fault = s.fault ∧ t.faultCause = s.faultCause ∧ t.cmd = s.cmd ∧ t.host = s.host ∧
    t.cmdIndex = s.cmdIndex ∧ t.rspLog = s.rspLog ∧ t.rst = s.rst

/-- Pulls, one after the other, that are answered `rs` take the source port from a state (outstanding, events) to another:
each begins where the one before ended (20_memory R63). -/
def pullsUse : List PullResult → Bool × List SrcEvent → Bool × List SrcEvent → Prop
  | [], p, q => q = p
  | r :: rs, p, q => ∃ es, pullFrom p.1 p.2 = ⟨some r, false, es⟩ ∧ pullsUse rs (false, es) q

/-- Every change of the budget, of `CUR_BYTE` and of the source port between `s` and `t` comes from pulls `rs`: each byte
delivered took one from the budget, `CUR_BYTE` is the last of them, only the last pull can have failed, and the source port
stands where these pulls, and at most one more that waits, leave it (10_state R22, R25, 20_memory R54, R62, R63). -/
def pullsAccount (s t : State) : Prop :=
  ∃ rs, t.pullLog = s.pullLog ++ rs ∧ t.budget.toNat + (pulledBytes rs).length = s.budget.toNat ∧
    t.curByte = (pulledBytes rs).getLast?.getD s.curByte ∧ (∀ r ∈ rs.dropLast, ∃ b, r = .byte b) ∧
    ∃ q, pullsUse rs (s.srcOutstanding, s.source) q ∧
      ((t.srcOutstanding, t.source) = q ∨ pullFrom q.1 q.2 = ⟨none, t.srcOutstanding, t.source⟩)

/-- `t` is at rest with the response `(st, v)` placed (40_control R103). -/
def responds (t : State) (st : Status) (v : Value) : Prop :=
  t.engineState = .idle ∧ t.job = none ∧ t.rspPending = true ∧ t.rspStatus = st.code ∧ t.rspValue = v

/-- The command from `s` met the end of the stream in state `t`, all bits before it consumed, all bytes pulled counted, and the
source port left where its pulls left it, so that the next pull meets the next answer (41_bit_read R112):
a failing response with value 0, or, while the source is silent, a command that waits at place `j` (20_memory R61,
60_exceptions R203, 70_reset R246). -/
def failsAtStreamEnd (s t : State) (j : Job) : Prop :=
  t.bitsLeft = 0#4 ∧
    t.budget.toNat + (sourceBytes s.srcOutstanding s.budget.toNat s.source).length = s.budget.toNat ∧
    (t.srcOutstanding, t.source) = sourceLeft s.srcOutstanding s.budget.toNat s.source ∧
    match s.streamEnd with
    | .outOfBudget => responds t .endOfBudget 0#64 ∧ t.budget = 0#32
    | .failed => responds t .sourceExhausted 0#64
    | .waits => busy t = true ∧ t.job = some j ∧ t.rspPending = s.rspPending ∧ t.rspStatus = s.rspStatus ∧
        t.rspValue = s.rspValue

/-! The ends of a run (70_reset R252). -/

/-- The host has no command left. -/
def noCommandLeft : List HostAction → Bool
  | [] => true
  | .command _ :: _ => false
  | .reset :: hs => noCommandLeft hs
  | .takeResponse :: hs => noCommandLeft hs

/-- The run has ended successfully: every command accepted, every response taken, IDLE, `FAULT = 0` (70_reset R252). R252 does
not say how a run with a reset after its first command ends; that this asks only for the state at the end, whatever a reset
abandoned before, is the model's choice (DESIGN CHOICE, log 21). -/
def runSucceeded (s : State) : Bool :=
  noCommandLeft s.host && !s.rspPending && s.engineState == .idle && !s.fault

/-- The run has ended in a fault: a command aborted (70_reset R252). -/
def runFaulted (s : State) : Bool := s.fault

/-- The run is stuck: it has not ended, and its next step changes nothing: a pull is never answered or a response never
taken (70_reset R252). -/
def runStuck (s : State) : Prop := runSucceeded s = false ∧ runFaulted s = false ∧ step s = .next s

end Sys2Proof.Machine
end

