-- ==== Sys2Proof/Certificates/Slice0/Obligations.lean ====
section
/-! DEFINITION. The statements about BSR for the provers. Each docstring names the rule of spec/ it formalises; where a
statement rests on a choice of the model, it names the log entry. -/

open Sys2Proof Sys2Proof.Machine

/-! ## Encoding -/

/-- Words written out in the spec decode to the commands they stand for (30_encoding R85, 95 vectors I-2, F-1, F-2, F-3,
F-4, F-8, F-18, S-4). Sanity. -/
def Obligations.SpecWordsDecode : Prop :=
  decode 0x0000000100000001#64 = .ok (.init 1) ∧ decode 0xFFFFFFFF00000001#64 = .ok (.init 0xFFFFFFFF) ∧
    decode 0x0000000000000002#64 = .ok .readBit ∧ decode 0x0000000200000003#64 = .ok (.fBool 2) ∧
    decode 0x0000000900000013#64 = .ok (.fU8 9) ∧ decode 0x0000001400000023#64 = .ok (.fU16 20) ∧
    decode 0x0000000400000033#64 = .ok (.fU32 4) ∧ decode 0xFFFFFFFF00000043#64 = .ok (.fU64 0xFFFFFFFF) ∧
    decode 0x0000002000000053#64 = .ok (.fWord 32) ∧ decode 0xFFFFFFFF00000004#64 = .ok (.ns 0xFFFFFFFF)

/-- Decoding the word of a command gives the command back, at every operand (30_encoding R76, R85). -/
def Obligations.DecodeInvertsEncode : Prop := ∀ i : Instr, decode (encode i) = .ok i

/-- A legal word is the word of the command it decodes to: no bit of it is dropped (30_encoding R76, R77, R78). -/
def Obligations.EncodeInvertsDecode : Prop := ∀ (w : CmdWord) (i : Instr), decode w = .ok i → encode i = w

/-- 30_encoding R77: the illegal words are exactly those with a nonzero `RSV`, a reserved `OP`, F with `TY` 6 or 7, INIT,
READ_BIT or NS with a nonzero `TY`, and READ_BIT with a nonzero `OPERAND`; each one, once accepted, aborts with
ILLEGAL_COMMAND and does nothing else. -/
def Obligations.IllegalWordsAbort : Prop :=
  ∀ w : CmdWord,
    ((∃ e, decode w = .error e) ↔
      (w.extractLsb' 7 25 ≠ 0#25 ∨ (w.extractLsb' 0 4 = 0#4 ∨ 5 ≤ (w.extractLsb' 0 4).toNat) ∨
        (w.extractLsb' 0 4 = 3#4 ∧ 6 ≤ (w.extractLsb' 4 3).toNat) ∨
        ((w.extractLsb' 0 4 = 1#4 ∨ w.extractLsb' 0 4 = 2#4 ∨ w.extractLsb' 0 4 = 4#4) ∧ w.extractLsb' 4 3 ≠ 0#3) ∨
        (w.extractLsb' 0 4 = 2#4 ∧ w.extractLsb' 32 32 ≠ 0#32))) ∧
    ∀ (s : State) (h : List HostAction) (e : DecodeError),
      cmdReady s = true → s.host = .command w :: h → decode w = .error e →
        step s = .next { s with cmd := w, cmdIndex := s.cmdIndex + 1, host := h, fault := true, faultCause := 1#4,
                                engineState := .halted }

/-- Exactly one row of the opcode map matches a legal word, and no row matches an illegal word
(30_encoding R85). -/
def Obligations.LegalWordMatchesOneRow : Prop :=
  ∀ w : CmdWord,
    ((∃ i, decode w = .ok i) → (opcodeRows.filter (·.holds w)).length = 1) ∧
      ((∃ e, decode w = .error e) → opcodeRows.filter (·.holds w) = [])

/-- The assembler takes exactly the lines whose operand is there where it must be and fits in 32 bits, and emits the word of the
command that the line's mnemonic and operand name, `f.* 33` and `ns 0` included (30_encoding R86). -/
def Obligations.AssemblerTakesWellFormedLines : Prop :=
  ∀ l : AsmLine, ((∃ w, assemble l = .ok w) ↔ l.wellFormed = true) ∧
    ∀ w, assemble l = .ok w →
      match l.mnemonic, l.operand with
      | .readBit, _ => decode w = .ok .readBit ∧ w = 0x0000000000000002#64
      | .init, some n => n < 2 ^ 32 ∧ decode w = .ok (.init (BitVec.ofNat 32 n)) ∧ w.toNat = n * 2 ^ 32 + 0x00000001
      | .f .bool, some n => n < 2 ^ 32 ∧ decode w = .ok (.fBool (BitVec.ofNat 32 n)) ∧ w.toNat = n * 2 ^ 32 + 0x00000003
      | .f .u8, some n => n < 2 ^ 32 ∧ decode w = .ok (.fU8 (BitVec.ofNat 32 n)) ∧ w.toNat = n * 2 ^ 32 + 0x00000013
      | .f .u16, some n => n < 2 ^ 32 ∧ decode w = .ok (.fU16 (BitVec.ofNat 32 n)) ∧ w.toNat = n * 2 ^ 32 + 0x00000023
      | .f .u32, some n => n < 2 ^ 32 ∧ decode w = .ok (.fU32 (BitVec.ofNat 32 n)) ∧ w.toNat = n * 2 ^ 32 + 0x00000033
      | .f .u64, some n => n < 2 ^ 32 ∧ decode w = .ok (.fU64 (BitVec.ofNat 32 n)) ∧ w.toNat = n * 2 ^ 32 + 0x00000043
      | .f .word, some n => n < 2 ^ 32 ∧ decode w = .ok (.fWord (BitVec.ofNat 32 n)) ∧ w.toNat = n * 2 ^ 32 + 0x00000053
      | .ns, some n => n < 2 ^ 32 ∧ decode w = .ok (.ns (BitVec.ofNat 32 n)) ∧ w.toNat = n * 2 ^ 32 + 0x00000004
      | _, none => False

/-! ## The command cycle, reset, the ports -/

/-- A step runs the decoded command: with the engine IDLE, no response pending, no fault, `rst = 0` and the host offering a legal
word, `cmd_ready` is 1 and the step is `exec` of the command from the state in which the word is latched, the engine is in EXEC
and the command-list position has advanced (30_encoding R81, 40_control R101, R102). -/
def Obligations.StepRunsDecodedCommand : Prop :=
  ∀ (s : State) (w : CmdWord) (h : List HostAction) (i : Instr),
    s.engineState = .idle → s.rspPending = false → s.fault = false → rstAsserted s = false →
    s.host = .command w :: h → decode w = .ok i →
      cmdReady s = true ∧
      step s = exec i { s with cmd := w, engineState := .exec, cmdIndex := s.cmdIndex + 1, host := h }

/-- `cmd_ready` is 1 exactly when the engine is IDLE with no response pending, no fault and `rst = 0`, and no command is accepted
otherwise: whenever a step moves the command-list position, these four held, the position moved by one, and the offered word was
latched (10_state R21, 30_encoding R81, 40_control R101). -/
def Obligations.CommandsAcceptedOnlyWhenReady : Prop :=
  ∀ s : State,
    (cmdReady s = true ↔
      s.engineState = .idle ∧ s.rspPending = false ∧ s.fault = false ∧ rstAsserted s = false) ∧
    ∀ t, step s = .next t → t.cmdIndex ≠ s.cmdIndex →
      s.engineState = .idle ∧ s.rspPending = false ∧ s.fault = false ∧ rstAsserted s = false ∧
        ∃ w h, s.host = .command w :: h ∧ t.cmdIndex = s.cmdIndex + 1 ∧ t.cmd = w ∧ t.host = h

/-- 10_state R37: what reset leaves, for every element the spec gives a value, and so STAT reads 0. (`ACC`, `W`, `M` and `V`
are unspecified there: nothing is said of them.) -/
def Obligations.ResetLeavesStatedValues : Prop :=
  State.reset.curByte = 0#8 ∧ State.reset.bitsLeft = 0#4 ∧ State.reset.budget = 0#32 ∧ State.reset.initDone = false ∧
    State.reset.fault = false ∧ State.reset.faultCause = 0#4 ∧ State.reset.engineState = .idle ∧
    State.reset.rspPending = false ∧ State.reset.rspStatus = 0#2 ∧ State.reset.rspValue = 0#64 ∧
    State.reset.srcOutstanding = false ∧ State.reset.cmd = 0#64 ∧ stat State.reset = 0#64

/-- A reset from any state, a command in progress, a pending response, an outstanding pull and an abort included: the host raises
`rst`, which changes no element, and the edge with `rst = 1` leaves every element the spec gives a value at that value; no
response is taken and no pull is answered (70_reset R240, R241). That `rst` rises in a step of its own before its edge, that the
host holds it by a further `reset`, and that the host's other actions, the source's events and the command-list position stay as
they are is the model's (log 13). -/
def Obligations.ResetFromEveryState : Prop :=
  ∀ s : State,
    (∀ h, rstAsserted s = false → s.host = .reset :: h → step s = .next { s with rst := true, host := h }) ∧
    (rstAsserted s = true → ∃ t, step s = .next t ∧ t.curByte = 0#8 ∧ t.bitsLeft = 0#4 ∧ t.budget = 0#32 ∧ t.initDone = false ∧
      t.fault = false ∧ t.faultCause = 0#4 ∧ t.engineState = .idle ∧ t.rspPending = false ∧ t.rspStatus = 0#2 ∧
      t.rspValue = 0#64 ∧ t.srcOutstanding = false ∧ t.cmd = 0#64 ∧ t.job = none ∧ t.source = s.source ∧
      t.cmdIndex = s.cmdIndex ∧ t.rspLog = s.rspLog ∧ t.pullLog = s.pullLog ∧
      (resetDue s = false → t.rst = false ∧ t.host = s.host) ∧
      ∀ h, s.host = .reset :: h → t.rst = true ∧ t.host = h)

/-- 70_reset R242: while `rst = 1` the outputs `cmd_ready`, `rsp_valid`, `src_req_valid`, `abort` and `stat` are 0, whatever the
state, and on the first edge after it the last four are 0 too, with `cmd_ready` 1 once `rst = 0`. -/
def Obligations.OutputsAroundReset : Prop :=
  ∀ s : State, rstAsserted s = true →
    cmdReady s = false ∧ rspValid s = false ∧ srcReqValid s = false ∧ abortOut s = false ∧ stat s = 0#64 ∧
      ∃ t, step s = .next t ∧ rspValid t = false ∧ srcReqValid t = false ∧ abortOut t = false ∧ stat t = 0#64 ∧
        (cmdReady t = true ↔ rstAsserted t = false)

/-- The response transfer: it clears `RSP_PENDING` and changes no other element; the host has the response (30_encoding
R81). While `rst = 1` there is none (70_reset R240). -/
def Obligations.ResponseTransfer : Prop :=
  ∀ (s : State) (h : List HostAction), s.engineState = .idle → s.rspPending = true → rstAsserted s = false →
    s.host = .takeResponse :: h →
    step s = .next { s with rspPending := false, rspLog := s.rspLog ++ [⟨s.rspStatus, s.rspValue⟩], host := h }

/-- A host that holds a command and never takes the response hangs the engine: not a fault, a stuck run (70_reset R245,
R252). That the stuck step repeats the state is the model's (log 6), and so are the order of the host's actions (log 10) and
that a run which a reset met before is judged by its state alone (log 21). -/
def Obligations.UntakenResponseIsStuck : Prop :=
  ∀ (s : State) (w : CmdWord) (h : List HostAction), s.Inv → s.rspPending = true → rstAsserted s = false →
    s.host = .command w :: h → runStuck s

/-- A source that never answers, or never accepts the request, leaves the command waiting for ever: no response, no abort,
a stuck run (70_reset R246, R252). That the stuck step repeats the state is the model's (log 6), and so is that a run which a
reset met before is judged by its state alone (log 21). -/
def Obligations.SilentSourceIsStuck : Prop :=
  ∀ s : State, s.Inv → s.JobInv → busy s = true → s.source = [] → rstAsserted s = false → resetDue s = false → runStuck s

/-- The layout of STAT: every field is a live copy of the element it names and bits 63:52 are 0 (10_state R35); the output
`stat` carries it (30_encoding R83) but while `rst = 1` (70_reset R242), and the outputs `rsp_valid` and `abort` are
`RSP_PENDING` and `FAULT` outside it (30_encoding R81, R83). -/
def Obligations.StatLayout : Prop :=
  ∀ s : State,
    (statView s).extractLsb' 0 32 = s.budget ∧ (statView s).extractLsb' 32 4 = s.bitsLeft ∧
      (statView s).extractLsb' 36 8 = s.curByte ∧ (statView s).getLsbD 44 = s.initDone ∧
      (statView s).getLsbD 45 = s.fault ∧ (statView s).extractLsb' 46 4 = s.faultCause ∧
      ((statView s).getLsbD 50 = true ↔ s.engineState = .exec ∨ s.engineState = .waitSrc) ∧
      (statView s).getLsbD 51 = s.rspPending ∧ (statView s).extractLsb' 52 12 = 0#12 ∧
      (rstAsserted s = false → stat s = statView s ∧ rspValid s = s.rspPending ∧ abortOut s = s.fault)

/-! ## INIT -/

/-- `ExecInit(budget)`, from every state: the budget is written, the bit cache is emptied and its bits are discarded,
`INIT_DONE` is set, the response is `(OK, 0)`, and nothing else changes: no pull is made (40_control R104). -/
def Obligations.InitStartsReader : Prop :=
  ∀ (b : Word32) (s : State),
    exec (.init b) s = .next { s with budget := b, bitsLeft := 0#4, curByte := 0#8, initDone := true, rspStatus := 0#2,
                                      rspValue := 0#64, rspPending := true, engineState := .idle, job := none }

/-- INIT discards the unread bits of the cached byte: the stream after it is that of the bytes the source delivers within the new
budget, and the source is not told (20_memory R66, 40_control R104). -/
def Obligations.InitDiscardsCachedBits : Prop :=
  ∀ (b : Word32) (s : State), ∃ t, exec (.init b) s = .next t ∧
    t.stream = (sourceBytes s.srcOutstanding b.toNat s.source).flatMap (cachedBits · 8) ∧ t.source = s.source ∧
      t.pullLog = s.pullLog

/-! ## BitRead and READ_BIT -/

/-- 41_bit_read R111: BitRead fails with END_OF_BUDGET exactly when the cache and the budget are empty at its start; it then
issues no pull and writes no state. -/
def Obligations.BitReadEndOfBudget : Prop :=
  ∀ s : State,
    ((bitRead s).1 = .err .endOfBudget ↔ s.bitsLeft = 0#4 ∧ s.budget = 0#32) ∧
      ((bitRead s).1 = .err .endOfBudget → (bitRead s).2 = s)

/-- BitRead fails with SOURCE_EXHAUSTED exactly when the cache is empty, the budget is not, and the one pull it issues is
answered `Short` or `Fail`; it then changes no element of the reader, and of the source's events it uses those of that one pull
and no others (41_bit_read R112). -/
def Obligations.BitReadSourceExhausted : Prop :=
  ∀ s : State,
    ((bitRead s).1 = .err .sourceExhausted ↔
      s.bitsLeft = 0#4 ∧ s.budget ≠ 0#32 ∧ ((srcPull s).1 = some .short ∨ (srcPull s).1 = some .fail)) ∧
    ((bitRead s).1 = .err .sourceExhausted →
      ∃ r es, (r = .short ∨ r = .fail) ∧ pullFrom s.srcOutstanding s.source = ⟨some r, false, es⟩ ∧
        (bitRead s).2 = { s with source := es, srcOutstanding := false, engineState := .exec,
                                 pullLog := s.pullLog ++ [r] })

/-- SOURCE_EXHAUSTED is not sticky: the next bit request pulls again and meets the source's next answer. After a `read_bit`
whose pull is answered `Short` or `Fail`, a second `read_bit` whose pull is answered with a byte delivers bit 7 of that byte
(41_bit_read R112, R118, 60_exceptions R204). -/
def Obligations.SourceExhaustedIsRetried : Prop :=
  ∀ (s : State) (r : PullResult) (b : Byte) (es es' : List SrcEvent), s.initDone = true → s.bitsLeft = 0#4 →
    s.budget ≠ 0#32 → r = .short ∨ r = .fail → pullFrom s.srcOutstanding s.source = ⟨some r, false, es⟩ →
    pullFrom false es = ⟨some (.byte b), false, es'⟩ →
    ∃ t u, exec .readBit s = .next t ∧ responds t .sourceExhausted 0#64 ∧ t.budget = s.budget ∧ t.source = es ∧
      exec .readBit t = .next u ∧ responds u .ok (bitWord 64 (b.getLsbD 7)) ∧ u.budget = s.budget - 1#32 ∧
      u.source = es' ∧ u.pullLog = s.pullLog ++ [r, .byte b]

/-- 41_bit_read R114: a successful BitRead consumes exactly one bit of the stream, issues at most one pull, and that only
when `BITS_LEFT = 0`; a failed one consumes no bit. -/
def Obligations.BitReadConsumesOneBit : Prop :=
  ∀ s : State,
    (∀ b t, bitRead s = (.ok b, t) → s.stream = b :: t.stream) ∧
      (∃ rs, (bitRead s).2.pullLog = s.pullLog ++ rs ∧ rs.length ≤ 1 ∧ (rs ≠ [] → s.bitsLeft = 0#4)) ∧
      (∀ st t, bitRead s = (.err st, t) → t.bitsLeft = s.bitsLeft ∧ t.curByte = s.curByte ∧ t.budget = s.budget)

/-- 20_memory R52: the classification of a source answer: a failure wins over a count of 1, and BitRead treats `Short` and
`Fail` alike. -/
def Obligations.PullClassification : Prop :=
  (∀ (c : BitVec 1) (b : Byte), classify true c b = .fail) ∧ (∀ b : Byte, classify false 1#1 b = .byte b) ∧
    (∀ b : Byte, classify false 0#1 b = .short) ∧
    ∀ s : State, s.bitsLeft = 0#4 → s.budget ≠ 0#32 → ((srcPull s).1 = some .short ∨ (srcPull s).1 = some .fail) →
      (bitRead s).1 = .err .sourceExhausted

/-- The two waits of a pull: with `src_req_valid` raised (but while `rst = 1`, 70_reset R242), in EXEC, until the source accepts
the request; then outstanding, in WAIT_SRC, until the answer (30_encoding R82, 10_state R33). The event `quiet` and the place
`readBit` are the model's (log 9, log 4). -/
def Obligations.RequestHeldUntilAccepted : Prop :=
  ∀ (s : State) (es : List SrcEvent), s.initDone = true → s.bitsLeft = 0#4 → s.budget ≠ 0#32 → s.srcOutstanding = false →
    (s.source = .quiet :: es →
      ∃ t, exec .readBit s = .next t ∧ t = { s with source := es, engineState := .exec, job := some .readBit } ∧
        srcReqValid t = !rstAsserted s) ∧
    (s.source = .ready :: .quiet :: es →
      ∃ t, exec .readBit s = .next t ∧
        t = { s with source := es, srcOutstanding := true, engineState := .waitSrc, job := some .readBit } ∧
        srcReqValid t = false)

/-- Source answers that arrive while no pull is outstanding are ignored: a command ends in the same state with and without
them before the source's other events, which it may not have reached (70_reset R247; the event list is log 9). -/
def Obligations.SpuriousAnswersIgnored : Prop :=
  ∀ (i : Instr) (s t u : State) (spurious es : List SrcEvent), s.srcOutstanding = false →
    (∀ a ∈ spurious, ∃ e c b, a = .answer e c b) →
    exec i { s with source := spurious ++ es } = .next t → exec i { s with source := es } = .next u →
      { t with source := u.source } = u ∧ (t.source = u.source ∨ t.source = spurious ++ u.source)

/-- READ_BIT delivers the next bit of the stream, which is each byte most significant bit first, and consumes that bit alone
(20_memory R56, 41_bit_read R113, R116). -/
def Obligations.ReadBitDeliversStreamHead : Prop :=
  ∀ (s : State) (b : Bool) (bs : List Bool), s.initDone = true → s.stream = b :: bs →
    ∃ t, exec .readBit s = .next t ∧ responds t .ok (bitWord 64 b) ∧ t.stream = bs ∧ t.streamEnd = s.streamEnd

/-- With bits in the cache READ_BIT takes `CUR_BYTE[BITS_LEFT - 1]` whatever the budget holds, pulls nothing and does not
shift `CUR_BYTE` (41_bit_read R113, R115, R116). -/
def Obligations.ReadBitFromCache : Prop :=
  ∀ s : State, s.initDone = true → s.bitsLeft ≠ 0#4 →
    exec .readBit s = .next { s with bitsLeft := s.bitsLeft - 1#4, rspStatus := 0#2,
                                     rspValue := bitWord 64 (s.curByte.getLsbD (s.bitsLeft.toNat - 1)),
                                     rspPending := true, engineState := .idle, job := none }

/-- With an empty cache and budget left READ_BIT pulls exactly one byte, stores it, takes one from the budget and delivers
bit 7 of it (20_memory R54, 41_bit_read R110, R116). -/
def Obligations.ReadBitPullsOneByte : Prop :=
  ∀ (s : State) (b : Byte) (es : List SrcEvent), s.initDone = true → s.bitsLeft = 0#4 → s.budget ≠ 0#32 →
    s.source = .ready :: .answer false 1#1 b :: es →
    exec .readBit s = .next { s with curByte := b, bitsLeft := 7#4, budget := s.budget - 1#32, source := es,
                                     srcOutstanding := false, pullLog := s.pullLog ++ [.byte b], rspStatus := 0#2,
                                     rspValue := bitWord 64 (b.getLsbD 7), rspPending := true,
                                     engineState := .idle, job := none }

/-- READ_BIT at the end of the stream: a failing response with value 0, or it waits (41_bit_read R111, R112, R116,
70_reset R246). The place it waits at is the model's (log 4). -/
def Obligations.ReadBitFailsAtStreamEnd : Prop :=
  ∀ s : State, s.initDone = true → s.stream = [] → ∃ t, exec .readBit s = .next t ∧ failsAtStreamEnd s t .readBit

/-- Once a BitRead has failed with END_OF_BUDGET the cache and the budget are empty, and every later command that asks for a
bit fails with END_OF_BUDGET too, makes no pull and leaves them so, until the next INIT (41_bit_read R118). -/
def Obligations.EndOfBudgetPersists : Prop :=
  ∀ s : State, s.initDone = true → s.bitsLeft = 0#4 → s.budget = 0#32 →
    exec .readBit s = .next { s with rspStatus := 1#2, rspValue := 0#64, rspPending := true, engineState := .idle,
                                     job := none } ∧
    (∀ (ty : FieldType) (n : Word32), 1 ≤ n.toNat → n.toNat ≤ 32 →
      exec (ty.command n) s = .next { s with acc := 0#32, rspStatus := 1#2, rspValue := 0#64, rspPending := true,
                                             engineState := .idle, job := none }) ∧
    (∀ n : Word32, 2 ≤ n.toNat →
      exec (.ns n) s = .next { s with acc := 0#32, nsW := BitVec.ofNat 6 (nsWidth n), nsM := BitVec.ofNat 33 (nsShort n),
                                      rspStatus := 1#2, rspValue := 0#64, rspPending := true, engineState := .idle,
                                      job := none })

/-! ## The F commands -/

/-- F.BOOL, F.U8, F.U16, F.U32, F.U64 and F.WORD over a stream that holds the field: the response is the narrowed value of the
next `n` bits, the first of them most significant, the accumulator loses no bit, and exactly these bits are consumed (20_memory
R57, 42_field_read R120, R128, R129 to R135). The value of F.WORD is that of any `WORD_BITS`. -/
def Obligations.FieldReadsStreamMsbFirst : Prop :=
  ∀ (ty : FieldType) (n : Word32) (s : State) (bs rest : List Bool), s.initDone = true → n.toNat ≤ 32 →
    s.stream = bs ++ rest → bs.length = n.toNat →
    ∃ t, exec (ty.command n) s = .next t ∧ t.acc.toNat = bitsValue bs ∧ bitsValue bs < 2 ^ n.toNat ∧
      responds t .ok (narrow Config.wordBits ty t.acc) ∧ t.stream = rest ∧ t.streamEnd = s.streamEnd

/-- 42_field_read R124: the narrowing of each result type, as a number. -/
def Obligations.NarrowingValues : Prop :=
  ∀ (wb : WordBits) (acc : Word32),
    (narrow wb .bool acc).toNat = (if acc.toNat ≠ 0 then 1 else 0) ∧ (narrow wb .u8 acc).toNat = acc.toNat % 2 ^ 8 ∧
      (narrow wb .u16 acc).toNat = acc.toNat % 2 ^ 16 ∧ (narrow wb .u32 acc).toNat = acc.toNat ∧
      (narrow wb .u64 acc).toNat = acc.toNat ∧ (narrow wb .word acc).toNat = acc.toNat % 2 ^ wb.bits ∧
      (wb ≠ .w16 → (narrow wb .word acc).toNat = acc.toNat)

/-- 42_field_read R127: F over `n` one-bits, `n` in 1 to 32, gives `ACC = 2^n - 1` and its narrowing. -/
def Obligations.AllOnesField : Prop :=
  ∀ (ty : FieldType) (n : Word32) (s : State) (rest : List Bool), s.initDone = true → 1 ≤ n.toNat → n.toNat ≤ 32 →
    s.stream = List.replicate n.toNat true ++ rest →
    ∃ t, exec (ty.command n) s = .next t ∧ t.acc.toNat = 2 ^ n.toNat - 1 ∧ t.rspPending = true ∧ t.rspStatus = 0#2 ∧
      t.rspValue.toNat =
        match ty with
        | .bool => 1
        | .u8 => 2 ^ min n.toNat 8 - 1
        | .u16 => 2 ^ min n.toNat 16 - 1
        | .u32 => 2 ^ n.toNat - 1
        | .u64 => 2 ^ n.toNat - 1
        | .word => if Config.wordBits = .w16 then 2 ^ min n.toNat 16 - 1 else 2 ^ n.toNat - 1

/-- 42_field_read R121: `f(0)` of every type answers `(OK, 0)` from every initialised state, without a pull, and changes no
state except `ACC` and the response. -/
def Obligations.ZeroWidthField : Prop :=
  ∀ (ty : FieldType) (s : State), s.initDone = true →
    exec (ty.command 0#32) s = .next { s with acc := 0#32, rspStatus := 0#2, rspValue := 0#64, rspPending := true,
                                              engineState := .idle, job := none }

/-- 42_field_read R122: an F command with `n > 32` aborts with F_WIDTH before any bit is read; nothing but the fault state is
written. -/
def Obligations.WideFieldAborts : Prop :=
  ∀ (ty : FieldType) (n : Word32) (s : State), s.initDone = true → 32 < n.toNat →
    exec (ty.command n) s = .next { s with fault := true, faultCause := 3#4, engineState := .halted }

/-- 42_field_read R126: F.BOOL is nonzero, not truncation: 1 when any of the `n` bits is 1, else 0, and 0 for `n = 0`. -/
def Obligations.BoolFieldIsNonzero : Prop :=
  ∀ (n : Word32) (s : State) (bs rest : List Bool), s.initDone = true → n.toNat ≤ 32 → s.stream = bs ++ rest →
    bs.length = n.toNat →
    ∃ t, exec (.fBool n) s = .next t ∧ responds t .ok (if true ∈ bs then 1#64 else 0#64) ∧ t.stream = rest

/-- An F command whose field the stream does not hold: the first failure ends it with value 0, the bits before it stay
consumed and the bytes pulled stay counted; or it waits for the source (42_field_read R123, 60_exceptions R203, 70_reset R246).
The place it waits at is the model's (log 4). -/
def Obligations.FieldFailsAtStreamEnd : Prop :=
  ∀ (ty : FieldType) (n : Word32) (s : State), s.initDone = true → n.toNat ≤ 32 → s.stream.length < n.toNat →
    ∃ t, exec (ty.command n) s = .next t ∧ failsAtStreamEnd s t (.field ty (n.toNat - s.stream.length))

/-! ## NS -/

/-- `floor_log2(x)` for `x > 0` is the index of the highest set bit, the one `k` with `2^k <= x < 2^(k+1)`, in 0 to 31
(43_ns_decode R140). -/
def Obligations.FloorLog2IsHighestBit : Prop :=
  ∀ x : Word32, x ≠ 0#32 →
    floorLog2 x ≤ 31 ∧ 2 ^ floorLog2 x ≤ x.toNat ∧ x.toNat < 2 ^ (floorLog2 x + 1) ∧ x.getLsbD (floorLog2 x) = true ∧
      ∀ k, 2 ^ k ≤ x.toNat → x.toNat < 2 ^ (k + 1) → k = floorLog2 x

/-- 43_ns_decode R142: the ranges of `W`, `M`, `V` and `2V - M`, and NS never aborts with F_WIDTH. -/
def Obligations.NsQuantitiesInRange : Prop :=
  ∀ n : Word32, n ≠ 0#32 →
    (1 ≤ nsWidth n ∧ nsWidth n ≤ 32 ∧ 2 ^ (nsWidth n - 1) ≤ n.toNat ∧ n.toNat < 2 ^ nsWidth n) ∧
      (1 ≤ nsShort n ∧ nsShort n ≤ 2 ^ (nsWidth n - 1) ∧ nsShort n + n.toNat = 2 ^ nsWidth n) ∧
      nsWidth n - 1 ≤ 31 ∧
      (∀ bs : List Bool, bs.length = nsWidth n - 1 → bitsValue bs < 2 ^ (nsWidth n - 1) ∧
        (nsShort n ≤ bitsValue bs → nsShort n ≤ 2 * bitsValue bs - nsShort n)) ∧
      ∀ s t : State, s.faultCause ≠ 3#4 → exec (.ns n) s = .next t → t.faultCause ≠ 3#4

/-- 43_ns_decode R146: with `v` the value of the first `W - 1` bits, NS consumes exactly these and returns `v` in `[0, M)` if
`v < M`; otherwise it consumes one bit more and returns `2v - M + extra` in `[M, n)`. -/
def Obligations.NsLengthAndRange : Prop :=
  ∀ (n : Word32) (s : State) (bs rest : List Bool), s.initDone = true → n ≠ 0#32 → s.stream = bs ++ rest →
    bs.length = floorLog2 n →
    (bitsValue bs < nsShort n →
      ∃ t, exec (.ns n) s = .next t ∧ responds t .ok (BitVec.ofNat 64 (bitsValue bs)) ∧ t.stream = rest ∧
        bitsValue bs < n.toNat) ∧
    (nsShort n ≤ bitsValue bs → ∀ (extra : Bool) (rest' : List Bool), rest = extra :: rest' →
      ∃ t, exec (.ns n) s = .next t ∧
        responds t .ok (BitVec.ofNat 64 (2 * bitsValue bs - nsShort n + extra.toNat)) ∧ t.stream = rest' ∧
        nsShort n ≤ 2 * bitsValue bs - nsShort n + extra.toNat ∧
        2 * bitsValue bs - nsShort n + extra.toNat < n.toNat)

/-- NS decodes every `x` in `[0, n)` from its codeword and consumes exactly the codeword, for every `n` from 1 to `2^32 - 1`
(43_ns_decode R141, R148, R150). -/
def Obligations.NsDecodesItsCode : Prop :=
  ∀ (n : Word32) (x : Nat) (s : State) (rest : List Bool), s.initDone = true → x < n.toNat →
    s.stream = nsCode n x ++ rest →
    ∃ t, exec (.ns n) s = .next t ∧ responds t .ok (BitVec.ofNat 64 x) ∧ t.stream = rest ∧ t.streamEnd = s.streamEnd

/-- The codewords of an alphabet are a prefix code: short ones of length `W - 1`, long ones of length `W`, `n` in all, none a
prefix of another (43_ns_decode R148, R150). -/
def Obligations.NsCodeIsPrefixFree : Prop :=
  ∀ n : Word32, n ≠ 0#32 →
    (∀ x, x < n.toNat → (nsCode n x).length = if x < nsShort n then nsWidth n - 1 else nsWidth n) ∧
      (∀ x y, x < n.toNat → y < n.toNat → nsCode n x <+: nsCode n y → x = y) ∧
      nsShort n + 2 * (2 ^ (nsWidth n - 1) - nsShort n) = n.toNat

/-- 43_ns_decode R149: for `n = 2^k`, `W = k + 1` and `M = 2^k`, NS always takes the short path: it reads exactly `k` bits and
returns them unchanged; for `n = 1` it reads nothing and returns 0. -/
def Obligations.NsPowersOfTwo : Prop :=
  ∀ (n : Word32) (k : Nat), n.toNat = 2 ^ k →
    nsWidth n = k + 1 ∧ nsShort n = 2 ^ k ∧
      ∀ (s : State) (bs rest : List Bool), s.initDone = true → s.stream = bs ++ rest → bs.length = k →
        ∃ t, exec (.ns n) s = .next t ∧ responds t .ok (BitVec.ofNat 64 (bitsValue bs)) ∧ t.stream = rest

/-- 43_ns_decode R144: `ns 0` aborts with NS_ZERO before any bit is read; nothing but the fault state is written. -/
def Obligations.NsZeroAborts : Prop :=
  ∀ s : State, s.initDone = true →
    exec (.ns 0#32) s = .next { s with fault := true, faultCause := 4#4, engineState := .halted }

/-- NS whose codeword the stream does not hold: in the first field, or at the extra bit of a long code with the bits of `v`
consumed; a failing response with value 0, or it waits (43_ns_decode R147, 60_exceptions R203, 70_reset R246). The place it
waits at is the model's (log 4). -/
def Obligations.NsFailsWithinCodeword : Prop :=
  ∀ (n : Word32) (s : State), s.initDone = true → n ≠ 0#32 →
    (s.stream.length < floorLog2 n →
      ∃ t, exec (.ns n) s = .next t ∧ failsAtStreamEnd s t (.nsFirst (floorLog2 n - s.stream.length))) ∧
    (s.stream.length = floorLog2 n → nsShort n ≤ bitsValue s.stream →
      ∃ t, exec (.ns n) s = .next t ∧ failsAtStreamEnd s t .nsExtra)

/-! ## Failures and aborts -/

/-- Every command but INIT aborts with NOT_INITIALISED while `INIT_DONE = 0`, whatever its operand (F with `n > 32` and `ns 0`
too); nothing but the fault state is written (10_state R27, 60_exceptions R207). -/
def Obligations.NotInitialisedAborts : Prop :=
  ∀ (i : Instr) (s : State), (∀ b, i ≠ .init b) → s.initDone = false →
    exec i s = .next { s with fault := true, faultCause := 2#4, engineState := .halted }

/-- An abort that a command raises is precise: it writes `FAULT`, `FAULT_CAUSE` and `ENGINE_STATE` and nothing else; the
`abort` output becomes 1, but while `rst = 1` (70_reset R242), and `cmd_ready` 0 (60_exceptions R205). -/
def Obligations.AbortIsPrecise : Prop :=
  ∀ (i : Instr) (s t : State), exec i s = .next t → t.engineState = .halted →
    (∃ c : AbortCause, t = { s with fault := true, faultCause := c.code, engineState := .halted }) ∧
      abortOut t = !rstAsserted s ∧ cmdReady t = false

/-- An accepted command has exactly one outcome: one response, OK or a failure with value 0; or an abort with no response; or
it waits for the source with no response yet (30_encoding R79, 60_exceptions R208, 70_reset R246). -/
def Obligations.OneOutcomePerCommand : Prop :=
  ∀ (i : Instr) (s t : State), exec i s = .next t →
    (t.engineState = .idle ∧ t.job = none ∧ t.rspPending = true ∧ t.fault = s.fault ∧ t.faultCause = s.faultCause ∧
      (t.rspStatus = 0#2 ∨ ((t.rspStatus = 1#2 ∨ t.rspStatus = 2#2) ∧ t.rspValue = 0#64))) ∨
    (t.engineState = .halted ∧ t.fault = true ∧ t.faultCause ≠ 0#4 ∧ t.rspPending = s.rspPending ∧
      t.rspStatus = s.rspStatus ∧ t.rspValue = s.rspValue) ∨
    (busy t = true ∧ t.job.isSome = true ∧ t.fault = s.fault ∧ t.faultCause = s.faultCause ∧
      t.rspPending = s.rspPending ∧ t.rspStatus = s.rspStatus ∧ t.rspValue = s.rspValue)

/-- The causes of an abort and their priority: `FAULT` is set only by the acceptance of a word, with ILLEGAL_COMMAND if it is
illegal, else NOT_INITIALISED if `INIT_DONE = 0`, else F_WIDTH for F with `n > 32` or NS_ZERO for `ns 0`; the reader and the
source port are as they were; the `abort` output is 1, `stat` shows `STAT` and `cmd_ready` is 0 (60_exceptions R202, R205, R207,
30_encoding R83). -/
def Obligations.FaultSetOnlyByAbort : Prop :=
  ∀ s t : State, step s = .next t → s.fault = false → t.fault = true →
    ∃ w h, cmdReady s = true ∧ s.host = .command w :: h ∧ t.engineState = .halted ∧
      t.curByte = s.curByte ∧ t.bitsLeft = s.bitsLeft ∧ t.budget = s.budget ∧ t.initDone = s.initDone ∧
      t.source = s.source ∧ t.pullLog = s.pullLog ∧ t.rspPending = s.rspPending ∧
      abortOut t = true ∧ stat t = statView t ∧ cmdReady t = false ∧
      ((∃ e, decode w = .error e) → t.faultCause = 1#4) ∧
      ∀ i, decode w = .ok i →
        (s.initDone = false → t.faultCause = 2#4) ∧
        (s.initDone = true →
          (t.faultCause = 3#4 ∧ ∃ ty n, i = FieldType.command ty n ∧ 32 < n.toNat) ∨
            (t.faultCause = 4#4 ∧ i = .ns 0#32))

/-- An aborted engine is left only by reset (60_exceptions R206). Until `rst` rises its `abort` output is 1 and `cmd_ready` 0
(30_encoding R81, R83); without a reset its step is the model's stop `halted`, so no later command, INIT included, is executed;
with one, `rst` rises and its edge clears `FAULT` and `FAULT_CAUSE` and leaves the engine IDLE. That the stop is a fault of the
step is 60_exceptions R219 (log 5); that `rst` rises in a step of its own is log 13. -/
def Obligations.FaultLeftOnlyByReset : Prop :=
  ∀ s : State, s.Inv → s.fault = true →
    (rstAsserted s = false → abortOut s = true ∧ cmdReady s = false ∧
      (resetDue s = false → step s = .fault (.halted s.faultCause)) ∧
      (resetDue s = true → ∃ u, step s = .next u ∧ u.fault = true ∧ rstAsserted u = true ∧
        ∃ t, step u = .next t ∧ t.fault = false ∧ t.faultCause = 0#4 ∧ t.engineState = .idle)) ∧
      (rstAsserted s = true →
        ∃ t, step s = .next t ∧ t.fault = false ∧ t.faultCause = 0#4 ∧ t.engineState = .idle)

/-- `INIT_DONE` is written only by INIT, which sets it, and by reset, which clears it (10_state R27). -/
def Obligations.InitDoneWrittenByInitAndReset : Prop :=
  ∀ s t : State, step s = .next t → t.initDone ≠ s.initDone →
    (rstAsserted s = true ∧ t.initDone = false) ∨
      (t.initDone = true ∧ cmdReady s = true ∧ ∃ w h b, s.host = .command w :: h ∧ decode w = .ok (.init b))

/-! ## Frames, accounting, invariants -/

/-- The frame of READ_BIT: beside the response slot it writes the bit cache, the budget and the source port alone, all of
them through at most one pull; the accumulator and the temporaries of NS stay (41_bit_read R117; `pullLog` is log 12). -/
def Obligations.ReadBitFrame : Prop :=
  ∀ s t : State, s.initDone = true → exec .readBit s = .next t →
    sameAround s t ∧ t.acc = s.acc ∧ t.nsW = s.nsW ∧ t.nsM = s.nsM ∧ t.nsV = s.nsV ∧ pullsAccount s t ∧
      t.pullLog.length ≤ s.pullLog.length + 1

/-- The frame of F.BOOL, F.U8, F.U16, F.U32, F.U64 and F.WORD: beside the accumulator and the response slot they write the bit
cache, the budget and the source port alone, through pulls; the temporaries of NS stay, and no flag is written (42_field_read
R129). -/
def Obligations.FieldFrame : Prop :=
  ∀ (ty : FieldType) (n : Word32) (s t : State), s.initDone = true → n.toNat ≤ 32 →
    exec (ty.command n) s = .next t →
    sameAround s t ∧ t.nsW = s.nsW ∧ t.nsM = s.nsM ∧ t.nsV = s.nsV ∧ pullsAccount s t

/-- The frame of NS: beside its temporaries `W`, `M`, `V`, the accumulator and the response slot it writes the bit cache, the
budget and the source port alone, through pulls; `W` and `M` are those of its operand, and no flag is written (43_ns_decode
R141, R145). -/
def Obligations.NsFrame : Prop :=
  ∀ (n : Word32) (s t : State), s.initDone = true → n ≠ 0#32 → exec (.ns n) s = .next t →
    sameAround s t ∧ t.nsW.toNat = nsWidth n ∧ t.nsM.toNat = nsShort n ∧ pullsAccount s t

/-- Between two INIT commands the budget does not increase, and it decreases exactly once for each byte the
source delivers: over any number of steps that accept no INIT and meet no reset, the budget at the start is the budget at
the end plus the bytes pulled in between (10_state R26; `pullLog` is the model's record of 70_reset R252, log 12). -/
def Obligations.BudgetCountsDeliveredBytes : Prop :=
  ∀ (k : Nat) (s t : State), rstAsserted s = false → .reset ∉ s.host → (∀ w b, .command w ∈ s.host → decode w ≠ .ok (.init b)) →
    Sys2Proof.core.run k s = .next t →
    ∃ rs, t.pullLog = s.pullLog ++ rs ∧ t.budget.toNat + (pulledBytes rs).length = s.budget.toNat

/-- 10_state R38: a state can deliver at most `8 * BUDGET + BITS_LEFT` further bits, and fewer if the source delivers fewer
bytes than the budget allows. -/
def Obligations.StreamBoundedByBudget : Prop :=
  ∀ s : State, s.stream.length ≤ 8 * s.budget.toNat + s.bitsLeft.toNat ∧
    (s.streamEnd ≠ .outOfBudget → s.stream.length < 8 * s.budget.toNat + s.bitsLeft.toNat)

/-- The invariants of the registers and of a waiting command hold at reset. -/
def Obligations.ResetMeetsInvariants : Prop := State.reset.Inv ∧ State.reset.JobInv

/-- Every step from a state that meets the invariants leads to one that meets them: `BITS_LEFT` is 0 to 7 between events,
reserved codes are never held, `FAULT` goes with HALTED, a pending response with IDLE, an outstanding pull with WAIT_SRC, a
failing response with value 0, and a waiting command's temporaries keep their ranges (10_state R24, R28, R30, R33,
60_exceptions R201, R202, 43_ns_decode R142). The fields of `State.Inv` on the place of a waiting command are the model's
(log 4). -/
def Obligations.StepKeepsInvariants : Prop :=
  ∀ s t : State, s.Inv → s.JobInv → step s = .next t → t.Inv ∧ t.JobInv

/-! ## Waiting, and what is never read -/

/-- A command that waited for the source and goes on is one command: waiting after the events `es1` and going on with `es2`
ends as if all had been there at once, for a command just accepted and for one that has waited before; and the step of a busy
engine that no reset meets is its command going on (10_state R31, 20_memory R63, 30_encoding R82, 70_reset R246). The place of a
waiting command is the model's own state (log 4), the event `quiet`, which `es1` is without, is the model's (log 9), and so is
that a busy engine goes on before the host does anything but reset (log 10). -/
def Obligations.WaitingThenGoingOnIsOneRun : Prop :=
  (∀ s : State, busy s = true → rstAsserted s = false → resetDue s = false → step s = .next (resume s)) ∧
  ∀ (s t : State) (es1 es2 : List SrcEvent), .quiet ∉ es1 → busy t = true →
    (∀ i : Instr, exec i { s with source := es1 } = .next t →
      exec i { s with source := es1 ++ es2 } = .next (resume { t with source := es2 })) ∧
    (s.job.isSome = true → resume { s with source := es1 } = t →
      resume { s with source := es1 ++ es2 } = resume { t with source := es2 })

/-- `ACC`, `W`, `M` and `V` are always written before they are read: what they hold when a command starts changes nothing but
what they hold when it ends or waits (10_state R29, R30). So their value after reset, which the spec leaves open (log 7), is
never seen. -/
def Obligations.TemporariesWrittenBeforeRead : Prop :=
  ∀ (i : Instr) (s t : State) (a : Word32) (w : BitVec 6) (m : BitVec 33) (v : Word32), exec i s = .next t →
    ∃ t', exec i { s with acc := a, nsW := w, nsM := m, nsV := v } = .next t' ∧
      { t' with acc := t.acc, nsW := t.nsW, nsM := t.nsM, nsV := t.nsV } = t
end

