-- ==== Sys2Proof/Laws/State.lean ====
section
/-! SUPPORT. What each named update of the state does to each field: one lemma per field per update, true by definition, so that
no later proof unfolds a record update. -/

namespace Sys2Proof.Machine

variable (s : State)

@[simp] theorem latchCommand_curByte (w : CmdWord) : (latchCommand w s).curByte = s.curByte := rfl
@[simp] theorem latchCommand_bitsLeft (w : CmdWord) : (latchCommand w s).bitsLeft = s.bitsLeft := rfl
@[simp] theorem latchCommand_budget (w : CmdWord) : (latchCommand w s).budget = s.budget := rfl
@[simp] theorem latchCommand_initDone (w : CmdWord) : (latchCommand w s).initDone = s.initDone := rfl
@[simp] theorem latchCommand_fault (w : CmdWord) : (latchCommand w s).fault = s.fault := rfl
@[simp] theorem latchCommand_faultCause (w : CmdWord) : (latchCommand w s).faultCause = s.faultCause := rfl
@[simp] theorem latchCommand_acc (w : CmdWord) : (latchCommand w s).acc = s.acc := rfl
@[simp] theorem latchCommand_nsW (w : CmdWord) : (latchCommand w s).nsW = s.nsW := rfl
@[simp] theorem latchCommand_nsM (w : CmdWord) : (latchCommand w s).nsM = s.nsM := rfl
@[simp] theorem latchCommand_nsV (w : CmdWord) : (latchCommand w s).nsV = s.nsV := rfl
@[simp] theorem latchCommand_engineState (w : CmdWord) : (latchCommand w s).engineState = .exec := rfl
@[simp] theorem latchCommand_rspPending (w : CmdWord) : (latchCommand w s).rspPending = s.rspPending := rfl
@[simp] theorem latchCommand_rspStatus (w : CmdWord) : (latchCommand w s).rspStatus = s.rspStatus := rfl
@[simp] theorem latchCommand_rspValue (w : CmdWord) : (latchCommand w s).rspValue = s.rspValue := rfl
@[simp] theorem latchCommand_srcOutstanding (w : CmdWord) : (latchCommand w s).srcOutstanding = s.srcOutstanding := rfl
@[simp] theorem latchCommand_cmd (w : CmdWord) : (latchCommand w s).cmd = w := rfl
@[simp] theorem latchCommand_job (w : CmdWord) : (latchCommand w s).job = s.job := rfl
@[simp] theorem latchCommand_rst (w : CmdWord) : (latchCommand w s).rst = s.rst := rfl
@[simp] theorem latchCommand_host (w : CmdWord) : (latchCommand w s).host = s.host.tail := rfl
@[simp] theorem latchCommand_source (w : CmdWord) : (latchCommand w s).source = s.source := rfl
@[simp] theorem latchCommand_cmdIndex (w : CmdWord) : (latchCommand w s).cmdIndex = s.cmdIndex + 1 := rfl
@[simp] theorem latchCommand_rspLog (w : CmdWord) : (latchCommand w s).rspLog = s.rspLog := rfl
@[simp] theorem latchCommand_pullLog (w : CmdWord) : (latchCommand w s).pullLog = s.pullLog := rfl

@[simp] theorem respond_curByte (st : Status) (v : Value) : (respond st v s).curByte = s.curByte := rfl
@[simp] theorem respond_bitsLeft (st : Status) (v : Value) : (respond st v s).bitsLeft = s.bitsLeft := rfl
@[simp] theorem respond_budget (st : Status) (v : Value) : (respond st v s).budget = s.budget := rfl
@[simp] theorem respond_initDone (st : Status) (v : Value) : (respond st v s).initDone = s.initDone := rfl
@[simp] theorem respond_fault (st : Status) (v : Value) : (respond st v s).fault = s.fault := rfl
@[simp] theorem respond_faultCause (st : Status) (v : Value) : (respond st v s).faultCause = s.faultCause := rfl
@[simp] theorem respond_acc (st : Status) (v : Value) : (respond st v s).acc = s.acc := rfl
@[simp] theorem respond_nsW (st : Status) (v : Value) : (respond st v s).nsW = s.nsW := rfl
@[simp] theorem respond_nsM (st : Status) (v : Value) : (respond st v s).nsM = s.nsM := rfl
@[simp] theorem respond_nsV (st : Status) (v : Value) : (respond st v s).nsV = s.nsV := rfl
@[simp] theorem respond_engineState (st : Status) (v : Value) : (respond st v s).engineState = .idle := rfl
@[simp] theorem respond_rspPending (st : Status) (v : Value) : (respond st v s).rspPending = true := rfl
@[simp] theorem respond_rspStatus (st : Status) (v : Value) : (respond st v s).rspStatus = st.code := rfl
@[simp] theorem respond_rspValue (st : Status) (v : Value) : (respond st v s).rspValue = v := rfl
@[simp] theorem respond_srcOutstanding (st : Status) (v : Value) : (respond st v s).srcOutstanding = s.srcOutstanding := rfl
@[simp] theorem respond_cmd (st : Status) (v : Value) : (respond st v s).cmd = s.cmd := rfl
@[simp] theorem respond_job (st : Status) (v : Value) : (respond st v s).job = none := rfl
@[simp] theorem respond_rst (st : Status) (v : Value) : (respond st v s).rst = s.rst := rfl
@[simp] theorem respond_host (st : Status) (v : Value) : (respond st v s).host = s.host := rfl
@[simp] theorem respond_source (st : Status) (v : Value) : (respond st v s).source = s.source := rfl
@[simp] theorem respond_cmdIndex (st : Status) (v : Value) : (respond st v s).cmdIndex = s.cmdIndex := rfl
@[simp] theorem respond_rspLog (st : Status) (v : Value) : (respond st v s).rspLog = s.rspLog := rfl
@[simp] theorem respond_pullLog (st : Status) (v : Value) : (respond st v s).pullLog = s.pullLog := rfl

@[simp] theorem raiseAbort_curByte (c : AbortCause) : (raiseAbort c s).curByte = s.curByte := rfl
@[simp] theorem raiseAbort_bitsLeft (c : AbortCause) : (raiseAbort c s).bitsLeft = s.bitsLeft := rfl
@[simp] theorem raiseAbort_budget (c : AbortCause) : (raiseAbort c s).budget = s.budget := rfl
@[simp] theorem raiseAbort_initDone (c : AbortCause) : (raiseAbort c s).initDone = s.initDone := rfl
@[simp] theorem raiseAbort_fault (c : AbortCause) : (raiseAbort c s).fault = true := rfl
@[simp] theorem raiseAbort_faultCause (c : AbortCause) : (raiseAbort c s).faultCause = c.code := rfl
@[simp] theorem raiseAbort_acc (c : AbortCause) : (raiseAbort c s).acc = s.acc := rfl
@[simp] theorem raiseAbort_nsW (c : AbortCause) : (raiseAbort c s).nsW = s.nsW := rfl
@[simp] theorem raiseAbort_nsM (c : AbortCause) : (raiseAbort c s).nsM = s.nsM := rfl
@[simp] theorem raiseAbort_nsV (c : AbortCause) : (raiseAbort c s).nsV = s.nsV := rfl
@[simp] theorem raiseAbort_engineState (c : AbortCause) : (raiseAbort c s).engineState = .halted := rfl
@[simp] theorem raiseAbort_rspPending (c : AbortCause) : (raiseAbort c s).rspPending = s.rspPending := rfl
@[simp] theorem raiseAbort_rspStatus (c : AbortCause) : (raiseAbort c s).rspStatus = s.rspStatus := rfl
@[simp] theorem raiseAbort_rspValue (c : AbortCause) : (raiseAbort c s).rspValue = s.rspValue := rfl
@[simp] theorem raiseAbort_srcOutstanding (c : AbortCause) : (raiseAbort c s).srcOutstanding = s.srcOutstanding := rfl
@[simp] theorem raiseAbort_cmd (c : AbortCause) : (raiseAbort c s).cmd = s.cmd := rfl
@[simp] theorem raiseAbort_job (c : AbortCause) : (raiseAbort c s).job = s.job := rfl
@[simp] theorem raiseAbort_rst (c : AbortCause) : (raiseAbort c s).rst = s.rst := rfl
@[simp] theorem raiseAbort_host (c : AbortCause) : (raiseAbort c s).host = s.host := rfl
@[simp] theorem raiseAbort_source (c : AbortCause) : (raiseAbort c s).source = s.source := rfl
@[simp] theorem raiseAbort_cmdIndex (c : AbortCause) : (raiseAbort c s).cmdIndex = s.cmdIndex := rfl
@[simp] theorem raiseAbort_rspLog (c : AbortCause) : (raiseAbort c s).rspLog = s.rspLog := rfl
@[simp] theorem raiseAbort_pullLog (c : AbortCause) : (raiseAbort c s).pullLog = s.pullLog := rfl

@[simp] theorem raiseRst_curByte : (raiseRst s).curByte = s.curByte := rfl
@[simp] theorem raiseRst_bitsLeft : (raiseRst s).bitsLeft = s.bitsLeft := rfl
@[simp] theorem raiseRst_budget : (raiseRst s).budget = s.budget := rfl
@[simp] theorem raiseRst_initDone : (raiseRst s).initDone = s.initDone := rfl
@[simp] theorem raiseRst_fault : (raiseRst s).fault = s.fault := rfl
@[simp] theorem raiseRst_faultCause : (raiseRst s).faultCause = s.faultCause := rfl
@[simp] theorem raiseRst_acc : (raiseRst s).acc = s.acc := rfl
@[simp] theorem raiseRst_nsW : (raiseRst s).nsW = s.nsW := rfl
@[simp] theorem raiseRst_nsM : (raiseRst s).nsM = s.nsM := rfl
@[simp] theorem raiseRst_nsV : (raiseRst s).nsV = s.nsV := rfl
@[simp] theorem raiseRst_engineState : (raiseRst s).engineState = s.engineState := rfl
@[simp] theorem raiseRst_rspPending : (raiseRst s).rspPending = s.rspPending := rfl
@[simp] theorem raiseRst_rspStatus : (raiseRst s).rspStatus = s.rspStatus := rfl
@[simp] theorem raiseRst_rspValue : (raiseRst s).rspValue = s.rspValue := rfl
@[simp] theorem raiseRst_srcOutstanding : (raiseRst s).srcOutstanding = s.srcOutstanding := rfl
@[simp] theorem raiseRst_cmd : (raiseRst s).cmd = s.cmd := rfl
@[simp] theorem raiseRst_job : (raiseRst s).job = s.job := rfl
@[simp] theorem raiseRst_rst : (raiseRst s).rst = true := rfl
@[simp] theorem raiseRst_host : (raiseRst s).host = s.host.tail := rfl
@[simp] theorem raiseRst_source : (raiseRst s).source = s.source := rfl
@[simp] theorem raiseRst_cmdIndex : (raiseRst s).cmdIndex = s.cmdIndex := rfl
@[simp] theorem raiseRst_rspLog : (raiseRst s).rspLog = s.rspLog := rfl
@[simp] theorem raiseRst_pullLog : (raiseRst s).pullLog = s.pullLog := rfl

@[simp] theorem engineReset_curByte : (engineReset s).curByte = 0#8 := rfl
@[simp] theorem engineReset_bitsLeft : (engineReset s).bitsLeft = 0#4 := rfl
@[simp] theorem engineReset_budget : (engineReset s).budget = 0#32 := rfl
@[simp] theorem engineReset_initDone : (engineReset s).initDone = false := rfl
@[simp] theorem engineReset_fault : (engineReset s).fault = false := rfl
@[simp] theorem engineReset_faultCause : (engineReset s).faultCause = 0#4 := rfl
@[simp] theorem engineReset_acc : (engineReset s).acc = 0#32 := rfl
@[simp] theorem engineReset_nsW : (engineReset s).nsW = 0#6 := rfl
@[simp] theorem engineReset_nsM : (engineReset s).nsM = 0#33 := rfl
@[simp] theorem engineReset_nsV : (engineReset s).nsV = 0#32 := rfl
@[simp] theorem engineReset_engineState : (engineReset s).engineState = .idle := rfl
@[simp] theorem engineReset_rspPending : (engineReset s).rspPending = false := rfl
@[simp] theorem engineReset_rspStatus : (engineReset s).rspStatus = 0#2 := rfl
@[simp] theorem engineReset_rspValue : (engineReset s).rspValue = 0#64 := rfl
@[simp] theorem engineReset_srcOutstanding : (engineReset s).srcOutstanding = false := rfl
@[simp] theorem engineReset_cmd : (engineReset s).cmd = 0#64 := rfl
@[simp] theorem engineReset_job : (engineReset s).job = none := rfl
@[simp] theorem engineReset_rst : (engineReset s).rst = resetDue s := rfl
@[simp] theorem engineReset_host : (engineReset s).host = (if resetDue s then s.host.tail else s.host) := rfl
@[simp] theorem engineReset_source : (engineReset s).source = s.source := rfl
@[simp] theorem engineReset_cmdIndex : (engineReset s).cmdIndex = s.cmdIndex := rfl
@[simp] theorem engineReset_rspLog : (engineReset s).rspLog = s.rspLog := rfl
@[simp] theorem engineReset_pullLog : (engineReset s).pullLog = s.pullLog := rfl

@[simp] theorem suspend_curByte (j : Job) : (suspend j s).curByte = s.curByte := rfl
@[simp] theorem suspend_bitsLeft (j : Job) : (suspend j s).bitsLeft = s.bitsLeft := rfl
@[simp] theorem suspend_budget (j : Job) : (suspend j s).budget = s.budget := rfl
@[simp] theorem suspend_initDone (j : Job) : (suspend j s).initDone = s.initDone := rfl
@[simp] theorem suspend_fault (j : Job) : (suspend j s).fault = s.fault := rfl
@[simp] theorem suspend_faultCause (j : Job) : (suspend j s).faultCause = s.faultCause := rfl
@[simp] theorem suspend_acc (j : Job) : (suspend j s).acc = s.acc := rfl
@[simp] theorem suspend_nsW (j : Job) : (suspend j s).nsW = s.nsW := rfl
@[simp] theorem suspend_nsM (j : Job) : (suspend j s).nsM = s.nsM := rfl
@[simp] theorem suspend_nsV (j : Job) : (suspend j s).nsV = s.nsV := rfl
@[simp] theorem suspend_engineState (j : Job) : (suspend j s).engineState = s.engineState := rfl
@[simp] theorem suspend_rspPending (j : Job) : (suspend j s).rspPending = s.rspPending := rfl
@[simp] theorem suspend_rspStatus (j : Job) : (suspend j s).rspStatus = s.rspStatus := rfl
@[simp] theorem suspend_rspValue (j : Job) : (suspend j s).rspValue = s.rspValue := rfl
@[simp] theorem suspend_srcOutstanding (j : Job) : (suspend j s).srcOutstanding = s.srcOutstanding := rfl
@[simp] theorem suspend_cmd (j : Job) : (suspend j s).cmd = s.cmd := rfl
@[simp] theorem suspend_job (j : Job) : (suspend j s).job = some j := rfl
@[simp] theorem suspend_rst (j : Job) : (suspend j s).rst = s.rst := rfl
@[simp] theorem suspend_host (j : Job) : (suspend j s).host = s.host := rfl
@[simp] theorem suspend_source (j : Job) : (suspend j s).source = s.source := rfl
@[simp] theorem suspend_cmdIndex (j : Job) : (suspend j s).cmdIndex = s.cmdIndex := rfl
@[simp] theorem suspend_rspLog (j : Job) : (suspend j s).rspLog = s.rspLog := rfl
@[simp] theorem suspend_pullLog (j : Job) : (suspend j s).pullLog = s.pullLog := rfl

@[simp] theorem pullAnswered_curByte (r : PullResult) (es : List SrcEvent) : (pullAnswered r es s).curByte = s.curByte := rfl
@[simp] theorem pullAnswered_bitsLeft (r : PullResult) (es : List SrcEvent) : (pullAnswered r es s).bitsLeft = s.bitsLeft := rfl
@[simp] theorem pullAnswered_budget (r : PullResult) (es : List SrcEvent) : (pullAnswered r es s).budget = s.budget := rfl
@[simp] theorem pullAnswered_initDone (r : PullResult) (es : List SrcEvent) : (pullAnswered r es s).initDone = s.initDone := rfl
@[simp] theorem pullAnswered_fault (r : PullResult) (es : List SrcEvent) : (pullAnswered r es s).fault = s.fault := rfl
@[simp] theorem pullAnswered_faultCause (r : PullResult) (es : List SrcEvent) : (pullAnswered r es s).faultCause = s.faultCause := rfl
@[simp] theorem pullAnswered_acc (r : PullResult) (es : List SrcEvent) : (pullAnswered r es s).acc = s.acc := rfl
@[simp] theorem pullAnswered_nsW (r : PullResult) (es : List SrcEvent) : (pullAnswered r es s).nsW = s.nsW := rfl
@[simp] theorem pullAnswered_nsM (r : PullResult) (es : List SrcEvent) : (pullAnswered r es s).nsM = s.nsM := rfl
@[simp] theorem pullAnswered_nsV (r : PullResult) (es : List SrcEvent) : (pullAnswered r es s).nsV = s.nsV := rfl
@[simp] theorem pullAnswered_engineState (r : PullResult) (es : List SrcEvent) : (pullAnswered r es s).engineState = .exec := rfl
@[simp] theorem pullAnswered_rspPending (r : PullResult) (es : List SrcEvent) : (pullAnswered r es s).rspPending = s.rspPending := rfl
@[simp] theorem pullAnswered_rspStatus (r : PullResult) (es : List SrcEvent) : (pullAnswered r es s).rspStatus = s.rspStatus := rfl
@[simp] theorem pullAnswered_rspValue (r : PullResult) (es : List SrcEvent) : (pullAnswered r es s).rspValue = s.rspValue := rfl
@[simp] theorem pullAnswered_srcOutstanding (r : PullResult) (es : List SrcEvent) : (pullAnswered r es s).srcOutstanding = false := rfl
@[simp] theorem pullAnswered_cmd (r : PullResult) (es : List SrcEvent) : (pullAnswered r es s).cmd = s.cmd := rfl
@[simp] theorem pullAnswered_job (r : PullResult) (es : List SrcEvent) : (pullAnswered r es s).job = s.job := rfl
@[simp] theorem pullAnswered_rst (r : PullResult) (es : List SrcEvent) : (pullAnswered r es s).rst = s.rst := rfl
@[simp] theorem pullAnswered_host (r : PullResult) (es : List SrcEvent) : (pullAnswered r es s).host = s.host := rfl
@[simp] theorem pullAnswered_source (r : PullResult) (es : List SrcEvent) : (pullAnswered r es s).source = es := rfl
@[simp] theorem pullAnswered_cmdIndex (r : PullResult) (es : List SrcEvent) : (pullAnswered r es s).cmdIndex = s.cmdIndex := rfl
@[simp] theorem pullAnswered_rspLog (r : PullResult) (es : List SrcEvent) : (pullAnswered r es s).rspLog = s.rspLog := rfl
@[simp] theorem pullAnswered_pullLog (r : PullResult) (es : List SrcEvent) : (pullAnswered r es s).pullLog = s.pullLog ++ [r] := rfl

@[simp] theorem pullWaiting_curByte (o : Bool) (es : List SrcEvent) : (pullWaiting o es s).curByte = s.curByte := rfl
@[simp] theorem pullWaiting_bitsLeft (o : Bool) (es : List SrcEvent) : (pullWaiting o es s).bitsLeft = s.bitsLeft := rfl
@[simp] theorem pullWaiting_budget (o : Bool) (es : List SrcEvent) : (pullWaiting o es s).budget = s.budget := rfl
@[simp] theorem pullWaiting_initDone (o : Bool) (es : List SrcEvent) : (pullWaiting o es s).initDone = s.initDone := rfl
@[simp] theorem pullWaiting_fault (o : Bool) (es : List SrcEvent) : (pullWaiting o es s).fault = s.fault := rfl
@[simp] theorem pullWaiting_faultCause (o : Bool) (es : List SrcEvent) : (pullWaiting o es s).faultCause = s.faultCause := rfl
@[simp] theorem pullWaiting_acc (o : Bool) (es : List SrcEvent) : (pullWaiting o es s).acc = s.acc := rfl
@[simp] theorem pullWaiting_nsW (o : Bool) (es : List SrcEvent) : (pullWaiting o es s).nsW = s.nsW := rfl
@[simp] theorem pullWaiting_nsM (o : Bool) (es : List SrcEvent) : (pullWaiting o es s).nsM = s.nsM := rfl
@[simp] theorem pullWaiting_nsV (o : Bool) (es : List SrcEvent) : (pullWaiting o es s).nsV = s.nsV := rfl
@[simp] theorem pullWaiting_engineState (o : Bool) (es : List SrcEvent) : (pullWaiting o es s).engineState = (if o then .waitSrc else .exec) := rfl
@[simp] theorem pullWaiting_rspPending (o : Bool) (es : List SrcEvent) : (pullWaiting o es s).rspPending = s.rspPending := rfl
@[simp] theorem pullWaiting_rspStatus (o : Bool) (es : List SrcEvent) : (pullWaiting o es s).rspStatus = s.rspStatus := rfl
@[simp] theorem pullWaiting_rspValue (o : Bool) (es : List SrcEvent) : (pullWaiting o es s).rspValue = s.rspValue := rfl
@[simp] theorem pullWaiting_srcOutstanding (o : Bool) (es : List SrcEvent) : (pullWaiting o es s).srcOutstanding = o := rfl
@[simp] theorem pullWaiting_cmd (o : Bool) (es : List SrcEvent) : (pullWaiting o es s).cmd = s.cmd := rfl
@[simp] theorem pullWaiting_job (o : Bool) (es : List SrcEvent) : (pullWaiting o es s).job = s.job := rfl
@[simp] theorem pullWaiting_rst (o : Bool) (es : List SrcEvent) : (pullWaiting o es s).rst = s.rst := rfl
@[simp] theorem pullWaiting_host (o : Bool) (es : List SrcEvent) : (pullWaiting o es s).host = s.host := rfl
@[simp] theorem pullWaiting_source (o : Bool) (es : List SrcEvent) : (pullWaiting o es s).source = es := rfl
@[simp] theorem pullWaiting_cmdIndex (o : Bool) (es : List SrcEvent) : (pullWaiting o es s).cmdIndex = s.cmdIndex := rfl
@[simp] theorem pullWaiting_rspLog (o : Bool) (es : List SrcEvent) : (pullWaiting o es s).rspLog = s.rspLog := rfl
@[simp] theorem pullWaiting_pullLog (o : Bool) (es : List SrcEvent) : (pullWaiting o es s).pullLog = s.pullLog := rfl

@[simp] theorem storeByte_curByte (b : Byte) : (storeByte b s).curByte = b := rfl
@[simp] theorem storeByte_bitsLeft (b : Byte) : (storeByte b s).bitsLeft = 8#4 := rfl
@[simp] theorem storeByte_budget (b : Byte) : (storeByte b s).budget = s.budget - 1#32 := rfl
@[simp] theorem storeByte_initDone (b : Byte) : (storeByte b s).initDone = s.initDone := rfl
@[simp] theorem storeByte_fault (b : Byte) : (storeByte b s).fault = s.fault := rfl
@[simp] theorem storeByte_faultCause (b : Byte) : (storeByte b s).faultCause = s.faultCause := rfl
@[simp] theorem storeByte_acc (b : Byte) : (storeByte b s).acc = s.acc := rfl
@[simp] theorem storeByte_nsW (b : Byte) : (storeByte b s).nsW = s.nsW := rfl
@[simp] theorem storeByte_nsM (b : Byte) : (storeByte b s).nsM = s.nsM := rfl
@[simp] theorem storeByte_nsV (b : Byte) : (storeByte b s).nsV = s.nsV := rfl
@[simp] theorem storeByte_engineState (b : Byte) : (storeByte b s).engineState = s.engineState := rfl
@[simp] theorem storeByte_rspPending (b : Byte) : (storeByte b s).rspPending = s.rspPending := rfl
@[simp] theorem storeByte_rspStatus (b : Byte) : (storeByte b s).rspStatus = s.rspStatus := rfl
@[simp] theorem storeByte_rspValue (b : Byte) : (storeByte b s).rspValue = s.rspValue := rfl
@[simp] theorem storeByte_srcOutstanding (b : Byte) : (storeByte b s).srcOutstanding = s.srcOutstanding := rfl
@[simp] theorem storeByte_cmd (b : Byte) : (storeByte b s).cmd = s.cmd := rfl
@[simp] theorem storeByte_job (b : Byte) : (storeByte b s).job = s.job := rfl
@[simp] theorem storeByte_rst (b : Byte) : (storeByte b s).rst = s.rst := rfl
@[simp] theorem storeByte_host (b : Byte) : (storeByte b s).host = s.host := rfl
@[simp] theorem storeByte_source (b : Byte) : (storeByte b s).source = s.source := rfl
@[simp] theorem storeByte_cmdIndex (b : Byte) : (storeByte b s).cmdIndex = s.cmdIndex := rfl
@[simp] theorem storeByte_rspLog (b : Byte) : (storeByte b s).rspLog = s.rspLog := rfl
@[simp] theorem storeByte_pullLog (b : Byte) : (storeByte b s).pullLog = s.pullLog := rfl

@[simp] theorem dropBit_curByte : (dropBit s).curByte = s.curByte := rfl
@[simp] theorem dropBit_bitsLeft : (dropBit s).bitsLeft = s.bitsLeft - 1#4 := rfl
@[simp] theorem dropBit_budget : (dropBit s).budget = s.budget := rfl
@[simp] theorem dropBit_initDone : (dropBit s).initDone = s.initDone := rfl
@[simp] theorem dropBit_fault : (dropBit s).fault = s.fault := rfl
@[simp] theorem dropBit_faultCause : (dropBit s).faultCause = s.faultCause := rfl
@[simp] theorem dropBit_acc : (dropBit s).acc = s.acc := rfl
@[simp] theorem dropBit_nsW : (dropBit s).nsW = s.nsW := rfl
@[simp] theorem dropBit_nsM : (dropBit s).nsM = s.nsM := rfl
@[simp] theorem dropBit_nsV : (dropBit s).nsV = s.nsV := rfl
@[simp] theorem dropBit_engineState : (dropBit s).engineState = s.engineState := rfl
@[simp] theorem dropBit_rspPending : (dropBit s).rspPending = s.rspPending := rfl
@[simp] theorem dropBit_rspStatus : (dropBit s).rspStatus = s.rspStatus := rfl
@[simp] theorem dropBit_rspValue : (dropBit s).rspValue = s.rspValue := rfl
@[simp] theorem dropBit_srcOutstanding : (dropBit s).srcOutstanding = s.srcOutstanding := rfl
@[simp] theorem dropBit_cmd : (dropBit s).cmd = s.cmd := rfl
@[simp] theorem dropBit_job : (dropBit s).job = s.job := rfl
@[simp] theorem dropBit_rst : (dropBit s).rst = s.rst := rfl
@[simp] theorem dropBit_host : (dropBit s).host = s.host := rfl
@[simp] theorem dropBit_source : (dropBit s).source = s.source := rfl
@[simp] theorem dropBit_cmdIndex : (dropBit s).cmdIndex = s.cmdIndex := rfl
@[simp] theorem dropBit_rspLog : (dropBit s).rspLog = s.rspLog := rfl
@[simp] theorem dropBit_pullLog : (dropBit s).pullLog = s.pullLog := rfl

@[simp] theorem clearAcc_curByte : (clearAcc s).curByte = s.curByte := rfl
@[simp] theorem clearAcc_bitsLeft : (clearAcc s).bitsLeft = s.bitsLeft := rfl
@[simp] theorem clearAcc_budget : (clearAcc s).budget = s.budget := rfl
@[simp] theorem clearAcc_initDone : (clearAcc s).initDone = s.initDone := rfl
@[simp] theorem clearAcc_fault : (clearAcc s).fault = s.fault := rfl
@[simp] theorem clearAcc_faultCause : (clearAcc s).faultCause = s.faultCause := rfl
@[simp] theorem clearAcc_acc : (clearAcc s).acc = 0#32 := rfl
@[simp] theorem clearAcc_nsW : (clearAcc s).nsW = s.nsW := rfl
@[simp] theorem clearAcc_nsM : (clearAcc s).nsM = s.nsM := rfl
@[simp] theorem clearAcc_nsV : (clearAcc s).nsV = s.nsV := rfl
@[simp] theorem clearAcc_engineState : (clearAcc s).engineState = s.engineState := rfl
@[simp] theorem clearAcc_rspPending : (clearAcc s).rspPending = s.rspPending := rfl
@[simp] theorem clearAcc_rspStatus : (clearAcc s).rspStatus = s.rspStatus := rfl
@[simp] theorem clearAcc_rspValue : (clearAcc s).rspValue = s.rspValue := rfl
@[simp] theorem clearAcc_srcOutstanding : (clearAcc s).srcOutstanding = s.srcOutstanding := rfl
@[simp] theorem clearAcc_cmd : (clearAcc s).cmd = s.cmd := rfl
@[simp] theorem clearAcc_job : (clearAcc s).job = s.job := rfl
@[simp] theorem clearAcc_rst : (clearAcc s).rst = s.rst := rfl
@[simp] theorem clearAcc_host : (clearAcc s).host = s.host := rfl
@[simp] theorem clearAcc_source : (clearAcc s).source = s.source := rfl
@[simp] theorem clearAcc_cmdIndex : (clearAcc s).cmdIndex = s.cmdIndex := rfl
@[simp] theorem clearAcc_rspLog : (clearAcc s).rspLog = s.rspLog := rfl
@[simp] theorem clearAcc_pullLog : (clearAcc s).pullLog = s.pullLog := rfl

@[simp] theorem shiftIn_curByte (b : Bool) : (shiftIn b s).curByte = s.curByte := rfl
@[simp] theorem shiftIn_bitsLeft (b : Bool) : (shiftIn b s).bitsLeft = s.bitsLeft := rfl
@[simp] theorem shiftIn_budget (b : Bool) : (shiftIn b s).budget = s.budget := rfl
@[simp] theorem shiftIn_initDone (b : Bool) : (shiftIn b s).initDone = s.initDone := rfl
@[simp] theorem shiftIn_fault (b : Bool) : (shiftIn b s).fault = s.fault := rfl
@[simp] theorem shiftIn_faultCause (b : Bool) : (shiftIn b s).faultCause = s.faultCause := rfl
@[simp] theorem shiftIn_acc (b : Bool) : (shiftIn b s).acc = s.acc <<< 1 ||| bitWord 32 b := rfl
@[simp] theorem shiftIn_nsW (b : Bool) : (shiftIn b s).nsW = s.nsW := rfl
@[simp] theorem shiftIn_nsM (b : Bool) : (shiftIn b s).nsM = s.nsM := rfl
@[simp] theorem shiftIn_nsV (b : Bool) : (shiftIn b s).nsV = s.nsV := rfl
@[simp] theorem shiftIn_engineState (b : Bool) : (shiftIn b s).engineState = s.engineState := rfl
@[simp] theorem shiftIn_rspPending (b : Bool) : (shiftIn b s).rspPending = s.rspPending := rfl
@[simp] theorem shiftIn_rspStatus (b : Bool) : (shiftIn b s).rspStatus = s.rspStatus := rfl
@[simp] theorem shiftIn_rspValue (b : Bool) : (shiftIn b s).rspValue = s.rspValue := rfl
@[simp] theorem shiftIn_srcOutstanding (b : Bool) : (shiftIn b s).srcOutstanding = s.srcOutstanding := rfl
@[simp] theorem shiftIn_cmd (b : Bool) : (shiftIn b s).cmd = s.cmd := rfl
@[simp] theorem shiftIn_job (b : Bool) : (shiftIn b s).job = s.job := rfl
@[simp] theorem shiftIn_rst (b : Bool) : (shiftIn b s).rst = s.rst := rfl
@[simp] theorem shiftIn_host (b : Bool) : (shiftIn b s).host = s.host := rfl
@[simp] theorem shiftIn_source (b : Bool) : (shiftIn b s).source = s.source := rfl
@[simp] theorem shiftIn_cmdIndex (b : Bool) : (shiftIn b s).cmdIndex = s.cmdIndex := rfl
@[simp] theorem shiftIn_rspLog (b : Bool) : (shiftIn b s).rspLog = s.rspLog := rfl
@[simp] theorem shiftIn_pullLog (b : Bool) : (shiftIn b s).pullLog = s.pullLog := rfl

@[simp] theorem startReader_curByte (n : Word32) : (startReader n s).curByte = 0#8 := rfl
@[simp] theorem startReader_bitsLeft (n : Word32) : (startReader n s).bitsLeft = 0#4 := rfl
@[simp] theorem startReader_budget (n : Word32) : (startReader n s).budget = n := rfl
@[simp] theorem startReader_initDone (n : Word32) : (startReader n s).initDone = true := rfl
@[simp] theorem startReader_fault (n : Word32) : (startReader n s).fault = s.fault := rfl
@[simp] theorem startReader_faultCause (n : Word32) : (startReader n s).faultCause = s.faultCause := rfl
@[simp] theorem startReader_acc (n : Word32) : (startReader n s).acc = s.acc := rfl
@[simp] theorem startReader_nsW (n : Word32) : (startReader n s).nsW = s.nsW := rfl
@[simp] theorem startReader_nsM (n : Word32) : (startReader n s).nsM = s.nsM := rfl
@[simp] theorem startReader_nsV (n : Word32) : (startReader n s).nsV = s.nsV := rfl
@[simp] theorem startReader_engineState (n : Word32) : (startReader n s).engineState = s.engineState := rfl
@[simp] theorem startReader_rspPending (n : Word32) : (startReader n s).rspPending = s.rspPending := rfl
@[simp] theorem startReader_rspStatus (n : Word32) : (startReader n s).rspStatus = s.rspStatus := rfl
@[simp] theorem startReader_rspValue (n : Word32) : (startReader n s).rspValue = s.rspValue := rfl
@[simp] theorem startReader_srcOutstanding (n : Word32) : (startReader n s).srcOutstanding = s.srcOutstanding := rfl
@[simp] theorem startReader_cmd (n : Word32) : (startReader n s).cmd = s.cmd := rfl
@[simp] theorem startReader_job (n : Word32) : (startReader n s).job = s.job := rfl
@[simp] theorem startReader_rst (n : Word32) : (startReader n s).rst = s.rst := rfl
@[simp] theorem startReader_host (n : Word32) : (startReader n s).host = s.host := rfl
@[simp] theorem startReader_source (n : Word32) : (startReader n s).source = s.source := rfl
@[simp] theorem startReader_cmdIndex (n : Word32) : (startReader n s).cmdIndex = s.cmdIndex := rfl
@[simp] theorem startReader_rspLog (n : Word32) : (startReader n s).rspLog = s.rspLog := rfl
@[simp] theorem startReader_pullLog (n : Word32) : (startReader n s).pullLog = s.pullLog := rfl

@[simp] theorem setNsParams_curByte (n : Word32) : (setNsParams n s).curByte = s.curByte := rfl
@[simp] theorem setNsParams_bitsLeft (n : Word32) : (setNsParams n s).bitsLeft = s.bitsLeft := rfl
@[simp] theorem setNsParams_budget (n : Word32) : (setNsParams n s).budget = s.budget := rfl
@[simp] theorem setNsParams_initDone (n : Word32) : (setNsParams n s).initDone = s.initDone := rfl
@[simp] theorem setNsParams_fault (n : Word32) : (setNsParams n s).fault = s.fault := rfl
@[simp] theorem setNsParams_faultCause (n : Word32) : (setNsParams n s).faultCause = s.faultCause := rfl
@[simp] theorem setNsParams_acc (n : Word32) : (setNsParams n s).acc = s.acc := rfl
@[simp] theorem setNsParams_nsW (n : Word32) : (setNsParams n s).nsW = BitVec.ofNat 6 (nsWidth n) := rfl
@[simp] theorem setNsParams_nsM (n : Word32) : (setNsParams n s).nsM = BitVec.ofNat 33 (nsShort n) := rfl
@[simp] theorem setNsParams_nsV (n : Word32) : (setNsParams n s).nsV = s.nsV := rfl
@[simp] theorem setNsParams_engineState (n : Word32) : (setNsParams n s).engineState = s.engineState := rfl
@[simp] theorem setNsParams_rspPending (n : Word32) : (setNsParams n s).rspPending = s.rspPending := rfl
@[simp] theorem setNsParams_rspStatus (n : Word32) : (setNsParams n s).rspStatus = s.rspStatus := rfl
@[simp] theorem setNsParams_rspValue (n : Word32) : (setNsParams n s).rspValue = s.rspValue := rfl
@[simp] theorem setNsParams_srcOutstanding (n : Word32) : (setNsParams n s).srcOutstanding = s.srcOutstanding := rfl
@[simp] theorem setNsParams_cmd (n : Word32) : (setNsParams n s).cmd = s.cmd := rfl
@[simp] theorem setNsParams_job (n : Word32) : (setNsParams n s).job = s.job := rfl
@[simp] theorem setNsParams_rst (n : Word32) : (setNsParams n s).rst = s.rst := rfl
@[simp] theorem setNsParams_host (n : Word32) : (setNsParams n s).host = s.host := rfl
@[simp] theorem setNsParams_source (n : Word32) : (setNsParams n s).source = s.source := rfl
@[simp] theorem setNsParams_cmdIndex (n : Word32) : (setNsParams n s).cmdIndex = s.cmdIndex := rfl
@[simp] theorem setNsParams_rspLog (n : Word32) : (setNsParams n s).rspLog = s.rspLog := rfl
@[simp] theorem setNsParams_pullLog (n : Word32) : (setNsParams n s).pullLog = s.pullLog := rfl

@[simp] theorem setNsV_curByte (v : Word32) : (setNsV v s).curByte = s.curByte := rfl
@[simp] theorem setNsV_bitsLeft (v : Word32) : (setNsV v s).bitsLeft = s.bitsLeft := rfl
@[simp] theorem setNsV_budget (v : Word32) : (setNsV v s).budget = s.budget := rfl
@[simp] theorem setNsV_initDone (v : Word32) : (setNsV v s).initDone = s.initDone := rfl
@[simp] theorem setNsV_fault (v : Word32) : (setNsV v s).fault = s.fault := rfl
@[simp] theorem setNsV_faultCause (v : Word32) : (setNsV v s).faultCause = s.faultCause := rfl
@[simp] theorem setNsV_acc (v : Word32) : (setNsV v s).acc = s.acc := rfl
@[simp] theorem setNsV_nsW (v : Word32) : (setNsV v s).nsW = s.nsW := rfl
@[simp] theorem setNsV_nsM (v : Word32) : (setNsV v s).nsM = s.nsM := rfl
@[simp] theorem setNsV_nsV (v : Word32) : (setNsV v s).nsV = v := rfl
@[simp] theorem setNsV_engineState (v : Word32) : (setNsV v s).engineState = s.engineState := rfl
@[simp] theorem setNsV_rspPending (v : Word32) : (setNsV v s).rspPending = s.rspPending := rfl
@[simp] theorem setNsV_rspStatus (v : Word32) : (setNsV v s).rspStatus = s.rspStatus := rfl
@[simp] theorem setNsV_rspValue (v : Word32) : (setNsV v s).rspValue = s.rspValue := rfl
@[simp] theorem setNsV_srcOutstanding (v : Word32) : (setNsV v s).srcOutstanding = s.srcOutstanding := rfl
@[simp] theorem setNsV_cmd (v : Word32) : (setNsV v s).cmd = s.cmd := rfl
@[simp] theorem setNsV_job (v : Word32) : (setNsV v s).job = s.job := rfl
@[simp] theorem setNsV_rst (v : Word32) : (setNsV v s).rst = s.rst := rfl
@[simp] theorem setNsV_host (v : Word32) : (setNsV v s).host = s.host := rfl
@[simp] theorem setNsV_source (v : Word32) : (setNsV v s).source = s.source := rfl
@[simp] theorem setNsV_cmdIndex (v : Word32) : (setNsV v s).cmdIndex = s.cmdIndex := rfl
@[simp] theorem setNsV_rspLog (v : Word32) : (setNsV v s).rspLog = s.rspLog := rfl
@[simp] theorem setNsV_pullLog (v : Word32) : (setNsV v s).pullLog = s.pullLog := rfl

@[simp] theorem offerNext_curByte (w : CmdWord) : (offerNext w s).curByte = s.curByte := rfl
@[simp] theorem offerNext_bitsLeft (w : CmdWord) : (offerNext w s).bitsLeft = s.bitsLeft := rfl
@[simp] theorem offerNext_budget (w : CmdWord) : (offerNext w s).budget = s.budget := rfl
@[simp] theorem offerNext_initDone (w : CmdWord) : (offerNext w s).initDone = s.initDone := rfl
@[simp] theorem offerNext_fault (w : CmdWord) : (offerNext w s).fault = false := rfl
@[simp] theorem offerNext_faultCause (w : CmdWord) : (offerNext w s).faultCause = 0#4 := rfl
@[simp] theorem offerNext_acc (w : CmdWord) : (offerNext w s).acc = s.acc := rfl
@[simp] theorem offerNext_nsW (w : CmdWord) : (offerNext w s).nsW = s.nsW := rfl
@[simp] theorem offerNext_nsM (w : CmdWord) : (offerNext w s).nsM = s.nsM := rfl
@[simp] theorem offerNext_nsV (w : CmdWord) : (offerNext w s).nsV = s.nsV := rfl
@[simp] theorem offerNext_engineState (w : CmdWord) : (offerNext w s).engineState = .idle := rfl
@[simp] theorem offerNext_rspPending (w : CmdWord) : (offerNext w s).rspPending = false := rfl
@[simp] theorem offerNext_rspStatus (w : CmdWord) : (offerNext w s).rspStatus = s.rspStatus := rfl
@[simp] theorem offerNext_rspValue (w : CmdWord) : (offerNext w s).rspValue = s.rspValue := rfl
@[simp] theorem offerNext_srcOutstanding (w : CmdWord) : (offerNext w s).srcOutstanding = false := rfl
@[simp] theorem offerNext_cmd (w : CmdWord) : (offerNext w s).cmd = s.cmd := rfl
@[simp] theorem offerNext_job (w : CmdWord) : (offerNext w s).job = none := rfl
@[simp] theorem offerNext_rst (w : CmdWord) : (offerNext w s).rst = false := rfl
@[simp] theorem offerNext_host (w : CmdWord) : (offerNext w s).host = .command w :: s.host := rfl
@[simp] theorem offerNext_source (w : CmdWord) : (offerNext w s).source = s.source := rfl
@[simp] theorem offerNext_cmdIndex (w : CmdWord) : (offerNext w s).cmdIndex = s.cmdIndex := rfl
@[simp] theorem offerNext_rspLog (w : CmdWord) : (offerNext w s).rspLog = s.rspLog := rfl
@[simp] theorem offerNext_pullLog (w : CmdWord) : (offerNext w s).pullLog = s.pullLog := rfl

end Sys2Proof.Machine
end

