-- ==== Sys2Proof/Laws/Reader.lean ====
section
/-! SUPPORT. What the shared operations can do, once each: the pull, BitRead, FieldRead, and how BitRead consumes the stream. -/

namespace Sys2Proof.Machine

/-- The fields no BitRead and no FieldRead writes, `ACC` apart. -/
structure ReadFrame (s t : State) : Prop where
  initDone : t.initDone = s.initDone
  fault : t.fault = s.fault
  faultCause : t.faultCause = s.faultCause
  nsW : t.nsW = s.nsW
  nsM : t.nsM = s.nsM
  nsV : t.nsV = s.nsV
  rspPending : t.rspPending = s.rspPending
  rspStatus : t.rspStatus = s.rspStatus
  rspValue : t.rspValue = s.rspValue
  cmd : t.cmd = s.cmd
  job : t.job = s.job
  host : t.host = s.host
  cmdIndex : t.cmdIndex = s.cmdIndex
  rspLog : t.rspLog = s.rspLog
  rst : t.rst = s.rst

theorem ReadFrame.refl (s : State) : ReadFrame s s := by constructor <;> rfl

theorem ReadFrame.trans {s t u : State} (h : ReadFrame s t) (k : ReadFrame t u) : ReadFrame s u := by
  cases h; cases k; constructor <;> simp_all

/-! The pull. -/

/-- A pull on any events either is answered, and no longer outstanding, or waits with an outstanding flag that never falls. -/
theorem pullFrom_cases (o : Bool) (es : List SrcEvent) :
    (∃ r rest, pullFrom o es = ⟨some r, false, rest⟩) ∨
      (∃ o' rest, pullFrom o es = ⟨none, o', rest⟩ ∧ (o = true → o' = true)) := by
  induction es generalizing o with
  | nil => exact .inr ⟨o, [], rfl, id⟩
  | cons e es ih =>
    cases e with
    | quiet => exact .inr ⟨o, es, rfl, id⟩
    | ready =>
      obtain h | ⟨o', rest, h, ho⟩ := ih true
      · exact .inl (by simpa [pullFrom] using h)
      · exact .inr ⟨o', rest, by simpa [pullFrom] using h, fun _ => ho rfl⟩
    | answer e c b =>
      cases o with
      | true => exact .inl ⟨classify e c b, es, rfl⟩
      | false =>
        obtain h | ⟨o', rest, h, ho⟩ := ih false
        · exact .inl (by simpa [pullFrom] using h)
        · exact .inr ⟨o', rest, by simpa [pullFrom] using h, by simp⟩

/-- A pull consumes events from the front of the list. -/
theorem pullFrom_suffix (o : Bool) (es : List SrcEvent) : (pullFrom o es).rest <:+ es := by
  induction es generalizing o with
  | nil => simp [pullFrom]
  | cons e es ih =>
    cases e with
    | quiet => simp [pullFrom]
    | ready => exact (ih true).trans (List.suffix_cons _ _)
    | answer e c b =>
      cases o with
      | true => simp [pullFrom]
      | false => simpa [pullFrom] using (ih false).trans (List.suffix_cons _ _)

/-- What a pull does: answered with the classified answer, or waiting. -/
theorem srcPull_cases (s : State) :
    (∃ r rest, pullFrom s.srcOutstanding s.source = ⟨some r, false, rest⟩ ∧
        srcPull s = (some r, pullAnswered r rest s)) ∨
      (∃ o rest, pullFrom s.srcOutstanding s.source = ⟨none, o, rest⟩ ∧ (s.srcOutstanding = true → o = true) ∧
        srcPull s = (none, pullWaiting o rest s)) := by
  obtain ⟨r, rest, h⟩ | ⟨o, rest, h, ho⟩ := pullFrom_cases s.srcOutstanding s.source
  · exact .inl ⟨r, rest, h, by simp [srcPull, h]⟩
  · exact .inr ⟨o, rest, h, ho, by simp [srcPull, h]⟩

/-! BitRead. -/

/-- Everything BitRead can do (41_bit_read R110). -/
theorem bitRead_cases (s : State) :
    (s.bitsLeft ≠ 0#4 ∧ bitRead s = (.ok (nextBit s), dropBit s)) ∨
    (s.bitsLeft = 0#4 ∧ s.budget = 0#32 ∧ bitRead s = (.err .endOfBudget, s)) ∨
    (s.bitsLeft = 0#4 ∧ s.budget ≠ 0#32 ∧ ∃ b rest, pullFrom s.srcOutstanding s.source = ⟨some (.byte b), false, rest⟩ ∧
      bitRead s = (.ok (b.getLsbD 7), dropBit (storeByte b (pullAnswered (.byte b) rest s)))) ∨
    (s.bitsLeft = 0#4 ∧ s.budget ≠ 0#32 ∧ ∃ r rest, (r = .short ∨ r = .fail) ∧
      pullFrom s.srcOutstanding s.source = ⟨some r, false, rest⟩ ∧
      bitRead s = (.err .sourceExhausted, pullAnswered r rest s)) ∨
    (s.bitsLeft = 0#4 ∧ s.budget ≠ 0#32 ∧ ∃ o rest, pullFrom s.srcOutstanding s.source = ⟨none, o, rest⟩ ∧
      (s.srcOutstanding = true → o = true) ∧ bitRead s = (.waiting, pullWaiting o rest s)) := by
  by_cases h : s.bitsLeft = 0#4
  · by_cases hb : s.budget = 0#32
    · exact .inr (.inl ⟨h, hb, by simp [bitRead, h, hb]⟩)
    · obtain ⟨r, rest, hp, hs⟩ | ⟨o, rest, hp, ho, hs⟩ := srcPull_cases s
      · cases r with
        | byte b =>
          exact .inr (.inr (.inl ⟨h, hb, b, rest, hp, by simp [bitRead, h, hb, hs, deliver, nextBit]⟩))
        | short => exact .inr (.inr (.inr (.inl ⟨h, hb, _, rest, .inl rfl, hp, by simp [bitRead, h, hb, hs]⟩)))
        | fail => exact .inr (.inr (.inr (.inl ⟨h, hb, _, rest, .inr rfl, hp, by simp [bitRead, h, hb, hs]⟩)))
      · exact .inr (.inr (.inr (.inr ⟨h, hb, o, rest, hp, ho, by simp [bitRead, h, hb, hs]⟩)))
  · exact .inl ⟨h, by simp [bitRead, h, deliver]⟩

/-- What BitRead leaves alone. -/
theorem bitRead_frame (s : State) : ReadFrame s (bitRead s).2 ∧ (bitRead s).2.acc = s.acc := by
  obtain ⟨_, h⟩ | ⟨_, _, h⟩ | ⟨_, _, _, _, _, h⟩ | ⟨_, _, _, _, _, _, h⟩ | ⟨_, _, _, _, _, _, h⟩ := bitRead_cases s <;>
    rw [h] <;> exact ⟨by constructor <;> rfl, rfl⟩

/-- What a FieldRead leaves alone. -/
theorem fieldLoop_frame (n : Nat) (s : State) : ReadFrame s (fieldLoop n s).2 := by
  induction n generalizing s with
  | zero => exact .refl s
  | succ n ih =>
    have hf := (bitRead_frame s).1
    rw [fieldLoop]
    split
    · rename_i b t h
      rw [h] at hf
      exact hf.trans ((show ReadFrame t (shiftIn b t) by constructor <;> rfl).trans (ih _))
    · rename_i h; rw [h] at hf; exact hf
    · rename_i h; rw [h] at hf; exact hf

/-- A failure of a FieldRead is END_OF_BUDGET or SOURCE_EXHAUSTED, never OK. -/
theorem bitRead_err (s t : State) (st : Status) (h : bitRead s = (.err st, t)) : st ≠ .ok := by
  obtain ⟨_, k⟩ | ⟨_, _, k⟩ | ⟨_, _, _, _, _, k⟩ | ⟨_, _, _, _, _, _, k⟩ | ⟨_, _, _, _, _, _, k⟩ := bitRead_cases s <;>
    rw [k] at h <;> simp at h <;> simp [← h.1]

theorem fieldLoop_err (n : Nat) (s t : State) (st : Status) (h : fieldLoop n s = (.err st, t)) : st ≠ .ok := by
  induction n generalizing s with
  | zero => simp [fieldLoop] at h
  | succ n ih =>
    rw [fieldLoop] at h
    split at h
    · exact ih _ h
    · rename_i hb
      obtain ⟨rfl, -⟩ : _ = st ∧ _ := by simpa using h
      exact bitRead_err _ _ _ hb
    · simp at h

/-! BitRead and the stream. -/

theorem cachedBits_length (b : Byte) (k : Nat) : (cachedBits b k).length = k := by
  induction k with
  | zero => rfl
  | succ k ih => simp [cachedBits, ih]

/-- One pull, seen from the stream: it takes the first byte the source delivers, or meets the end of the stream and leaves the
source port as `sourceLeft` says. -/
theorem sourceBytes_pull (o : Bool) (k : Nat) (es : List SrcEvent) :
    (∀ b rest, pullFrom o es = ⟨some (.byte b), false, rest⟩ →
      sourceBytes o (k + 1) es = b :: sourceBytes false k rest ∧ sourceEnd o (k + 1) es = sourceEnd false k rest ∧
        sourceLeft o (k + 1) es = sourceLeft false k rest) ∧
    (∀ r rest, r = .short ∨ r = .fail → pullFrom o es = ⟨some r, false, rest⟩ →
      sourceBytes o (k + 1) es = [] ∧ sourceEnd o (k + 1) es = .failed ∧ sourceLeft o (k + 1) es = (false, rest)) ∧
    (∀ o' rest, pullFrom o es = ⟨none, o', rest⟩ →
      sourceBytes o (k + 1) es = [] ∧ sourceEnd o (k + 1) es = .waits ∧ sourceLeft o (k + 1) es = (o', rest)) := by
  induction es generalizing o with
  | nil => simp [pullFrom, sourceBytes, sourceEnd, sourceLeft]
  | cons e es ih =>
    cases e with
    | quiet => simp [pullFrom, sourceBytes, sourceEnd, sourceLeft]
    | ready => simpa [pullFrom, sourceBytes, sourceEnd, sourceLeft] using ih true
    | answer e c b =>
      cases o with
      | false => simpa [pullFrom, sourceBytes, sourceEnd, sourceLeft] using ih false
      | true =>
        simp only [pullFrom, sourceBytes, sourceEnd, sourceLeft, if_true]
        cases classify e c b <;> simp +contextual

/-- The bits in the cache, with the next one apart. -/
theorem cachedBits_next (s : State) (h : s.bitsLeft ≠ 0#4) :
    cachedBits s.curByte s.bitsLeft.toNat = nextBit s :: cachedBits s.curByte (s.bitsLeft - 1#4).toNat := by
  have h1 : s.bitsLeft.toNat = (s.bitsLeft - 1#4).toNat + 1 := by bv_omega
  rw [h1, cachedBits, nextBit, h1]; simp

/-- The bits a byte just pulled holds, with the first one apart (20_memory R56). -/
theorem cachedBits_eight (b : Byte) : cachedBits b 8 = b.getLsbD 7 :: cachedBits b 7 := rfl

theorem budget_pred (s : State) (h : s.budget ≠ 0#32) : s.budget.toNat = (s.budget - 1#32).toNat + 1 := by bv_omega

/-- A successful BitRead delivers the head of the stream and leaves its tail; a failed or waiting one meets the end of the
stream with an empty cache. -/
theorem bitRead_stream (s : State) :
    (∃ b t, bitRead s = (.ok b, t) ∧ s.stream = b :: t.stream ∧ t.streamEnd = s.streamEnd) ∨
    (bitRead s = (.err .endOfBudget, s) ∧ s.stream = [] ∧ s.streamEnd = .outOfBudget) ∨
    (∃ r rest, bitRead s = (.err .sourceExhausted, pullAnswered r rest s) ∧ s.stream = [] ∧ s.streamEnd = .failed) ∨
    (∃ o rest, bitRead s = (.waiting, pullWaiting o rest s) ∧ s.stream = [] ∧ s.streamEnd = .waits) := by
  obtain ⟨h0, h⟩ | ⟨h0, hb, h⟩ | ⟨h0, hb, b, rest, hp, h⟩ | ⟨h0, hb, r, rest, hr, hp, h⟩ | ⟨h0, hb, o, rest, hp, _, h⟩ :=
    bitRead_cases s
  · exact .inl ⟨_, _, h, by simp [State.stream, cachedBits_next s h0], rfl⟩
  · exact .inr (.inl ⟨h, by simp [State.stream, h0, hb, cachedBits, sourceBytes], by
      simp [State.streamEnd, hb, sourceEnd]⟩)
  · have hs := (sourceBytes_pull s.srcOutstanding (s.budget - 1#32).toNat s.source).1 b rest hp
    refine .inl ⟨_, _, h, ?_, ?_⟩
    · rw [State.stream, h0, budget_pred s hb, hs.1]
      simp [cachedBits, State.stream]
    · rw [State.streamEnd, State.streamEnd, budget_pred s hb, hs.2.1]
      simp
  · have hs := (sourceBytes_pull s.srcOutstanding (s.budget - 1#32).toNat s.source).2.1 r rest hr hp
    refine .inr (.inr (.inl ⟨r, rest, h, ?_, ?_⟩))
    · rw [State.stream, h0, budget_pred s hb, hs.1]; simp [cachedBits]
    · rw [State.streamEnd, budget_pred s hb, hs.2.1]
  · have hs := (sourceBytes_pull s.srcOutstanding (s.budget - 1#32).toNat s.source).2.2 o rest hp
    refine .inr (.inr (.inr ⟨o, rest, h, ?_, ?_⟩))
    · rw [State.stream, h0, budget_pred s hb, hs.1]; simp [cachedBits]
    · rw [State.streamEnd, budget_pred s hb, hs.2.1]

end Sys2Proof.Machine
end

