-- ==== Sys2Proof/Laws/Commands.lean ====
section
/-! SUPPORT. What a FieldRead, a command and a step can do, once each, for proofs to cite instead of unfolding them. -/

namespace Sys2Proof.Machine

/-! FieldRead. -/

/-- How a FieldRead ends: with the accumulator, with a failure, or waiting with some bit still to be read. -/
theorem fieldLoop_cases (n : Nat) (s : State) :
    (∃ t, fieldLoop n s = (.ok t.acc, t)) ∨
    (∃ st t, (st = .endOfBudget ∨ st = .sourceExhausted) ∧ fieldLoop n s = (.err st, t)) ∨
    (∃ k t, 1 ≤ k ∧ k ≤ n ∧ busy t = true ∧ fieldLoop n s = (.waiting k, t)) := by
  induction n generalizing s with
  | zero => exact .inl ⟨s, rfl⟩
  | succ n ih =>
    obtain ⟨_, h⟩ | ⟨_, _, h⟩ | ⟨_, _, _, _, _, h⟩ | ⟨_, _, _, _, _, _, h⟩ | ⟨_, _, o, _, _, _, h⟩ := bitRead_cases s <;>
      simp only [fieldLoop, h]
    · rcases ih _ with h | h | ⟨k, t, h1, h2, h⟩
      · exact .inl h
      · exact .inr (.inl h)
      · exact .inr (.inr ⟨k, t, h1, by omega, h⟩)
    · exact .inr (.inl ⟨_, _, .inl rfl, rfl⟩)
    · rcases ih _ with h | h | ⟨k, t, h1, h2, h⟩
      · exact .inl h
      · exact .inr (.inl h)
      · exact .inr (.inr ⟨k, t, h1, by omega, h⟩)
    · exact .inr (.inl ⟨_, _, .inr rfl, rfl⟩)
    · exact .inr (.inr ⟨_, _, by omega, le_refl _, by cases o <;> simp [busy], rfl⟩)

/-- One bit shifted into an accumulator that has room for it (42_field_read R120, R128). -/
theorem shiftIn_acc_toNat (b : Bool) (s : State) (h : s.acc.toNat < 2 ^ 31) :
    (shiftIn b s).acc.toNat = 2 * s.acc.toNat + b.toNat := by
  have h1 : (s.acc <<< 1).toNat = 2 * s.acc.toNat := by
    rw [BitVec.toNat_shiftLeft, Nat.shiftLeft_eq]; omega
  have h2 : (bitWord 32 b).toNat = b.toNat := by cases b <;> rfl
  rw [shiftIn_acc, BitVec.toNat_or, h1, h2]
  have h3 := Nat.two_pow_add_eq_or_of_lt (i := 1) (b := b.toNat) (by cases b <;> simp) s.acc.toNat
  simpa using h3.symm

/-- A FieldRead over a stream that holds the field: the accumulator takes the bits in stream order, the first of them most
significant, and exactly these bits are consumed. `k` bits are in the accumulator already. -/
theorem fieldLoop_stream (n : Nat) (s : State) (bs rest : List Bool) (hs : s.stream = bs ++ rest) (hl : bs.length = n)
    (k : Nat) (hk : s.acc.toNat < 2 ^ k) (hkn : k + n ≤ 32) :
    ∃ t, fieldLoop n s = (.ok t.acc, t) ∧ t.acc.toNat = s.acc.toNat * 2 ^ n + bitsValue bs ∧ t.stream = rest ∧
      t.streamEnd = s.streamEnd := by
  induction n generalizing s bs k with
  | zero =>
    obtain rfl := List.length_eq_zero_iff.1 hl
    exact ⟨s, rfl, by simp [bitsValue], by simpa using hs, rfl⟩
  | succ n ih =>
    obtain _ | ⟨b, bs⟩ := bs
    · simp at hl
    obtain ⟨b', u, h, hs', he⟩ | ⟨_, h1, _⟩ | ⟨_, _, _, h1, _⟩ | ⟨_, _, _, h1, _⟩ := bitRead_stream s
    · have ha := (bitRead_frame s).2
      simp only [h] at ha
      rw [hs] at hs'
      simp only [List.cons_append, List.cons.injEq] at hs'
      obtain ⟨rfl, hs'⟩ := hs'
      simp only [List.length_cons, Nat.add_right_cancel_iff] at hl
      have h31 : u.acc.toNat < 2 ^ 31 := by
        rw [ha]; exact lt_of_lt_of_le hk (Nat.pow_le_pow_right (by omega) (by omega))
      have hacc := shiftIn_acc_toNat b u h31
      rw [ha] at hacc
      obtain ⟨t, ht, hv, hst, hen⟩ := ih (shiftIn b u) bs hs'.symm hl (k + 1)
        (by rw [hacc]; have := b.toNat_le; rw [pow_succ]; omega) (by omega)
      refine ⟨t, by simp [fieldLoop, h, ht], ?_, hst, by rw [hen]; exact he⟩
      rw [hv, hacc, bitsValue, hl, pow_succ]; ring
    all_goals simp [hs] at h1

/-- Reading bits one after the other reaches the end of the same source: what the pulls from `s` deliver is what the budget
paid for between `s` and `t` and what the pulls from `t` deliver, and both leave the source port alike (20_memory R63). -/
def SameSourceAhead (s t : State) : Prop :=
  s.budget.toNat + (sourceBytes t.srcOutstanding t.budget.toNat t.source).length =
      t.budget.toNat + (sourceBytes s.srcOutstanding s.budget.toNat s.source).length ∧
    sourceLeft t.srcOutstanding t.budget.toNat t.source = sourceLeft s.srcOutstanding s.budget.toNat s.source

theorem bitRead_ahead (s t : State) (b : Bool) (h : bitRead s = (.ok b, t)) : SameSourceAhead s t := by
  obtain ⟨_, k⟩ | ⟨_, _, k⟩ | ⟨_, hb, b, rest, hp, k⟩ | ⟨_, _, _, _, _, _, k⟩ | ⟨_, _, _, _, _, _, k⟩ := bitRead_cases s <;>
    rw [k] at h <;> cases h
  · exact ⟨rfl, rfl⟩
  · have hs := (sourceBytes_pull s.srcOutstanding (s.budget - 1#32).toNat s.source).1 b rest hp
    constructor
    · rw [budget_pred s hb, hs.1]; simp; omega
    · rw [budget_pred s hb, hs.2.2]; simp

theorem fieldLoop_ahead (n : Nat) (s t : State) (a : Word32) (h : fieldLoop n s = (.ok a, t)) : SameSourceAhead s t := by
  induction n generalizing s with
  | zero => cases h; exact ⟨rfl, rfl⟩
  | succ n ih =>
    rw [fieldLoop] at h
    split at h
    · rename_i b u hb
      have h1 := bitRead_ahead _ _ _ hb
      have h2 : SameSourceAhead u t := ih (shiftIn b u) h
      exact ⟨by have := h1.1; have := h2.1; omega, h2.2.trans h1.2⟩
    · simp at h
    · simp at h

/-- A FieldRead that asks for more bits than the stream holds meets the end of the stream: every bit is consumed, every byte
the source delivered is counted, and the source port is left where the pulls left it. -/
theorem fieldLoop_short (n : Nat) (s : State) (hl : s.stream.length < n) :
    ∃ t, fieldLoop n s =
        ((match s.streamEnd with
          | .outOfBudget => .err .endOfBudget
          | .failed => .err .sourceExhausted
          | .waits => .waiting (n - s.stream.length)), t) ∧
      t.bitsLeft = 0#4 ∧
      t.budget.toNat + (sourceBytes s.srcOutstanding s.budget.toNat s.source).length = s.budget.toNat ∧
      (t.srcOutstanding, t.source) = sourceLeft s.srcOutstanding s.budget.toNat s.source ∧
      (s.streamEnd = .outOfBudget → t.budget = 0#32) ∧ (s.streamEnd = .waits → busy t = true) := by
  induction n generalizing s with
  | zero => simp at hl
  | succ n ih =>
    obtain ⟨h0, h⟩ | ⟨h0, hb, h⟩ | ⟨h0, hb, b, rest, hp, h⟩ | ⟨h0, hb, r, rest, hr, hp, h⟩ | ⟨h0, hb, o, rest, hp, _, h⟩ :=
      bitRead_cases s
    · have hs : s.stream = nextBit s :: (shiftIn (nextBit s) (dropBit s)).stream := by
        simp [State.stream, cachedBits_next s h0]
      have hlt : (shiftIn (nextBit s) (dropBit s)).stream.length < n := by rw [hs, List.length_cons] at hl; omega
      obtain ⟨t, ht, ht'⟩ := ih _ hlt
      refine ⟨t, ?_, ht'⟩
      have hn : n + 1 - s.stream.length = n - (shiftIn (nextBit s) (dropBit s)).stream.length := by
        rw [hs, List.length_cons]; omega
      rw [fieldLoop, h, hn]; exact ht
    · have he : s.streamEnd = .outOfBudget := by simp [State.streamEnd, hb, sourceEnd]
      exact ⟨s, by simp [fieldLoop, h, he], h0, by simp [hb, sourceBytes],
        by simp [hb, sourceLeft], by simp [hb], by simp [he]⟩
    · have hp' := (sourceBytes_pull s.srcOutstanding (s.budget - 1#32).toNat s.source).1 b rest hp
      obtain ⟨u, hu⟩ : ∃ u, shiftIn (b.getLsbD 7) (dropBit (storeByte b (pullAnswered (.byte b) rest s))) = u := ⟨_, rfl⟩
      have hs : s.stream = b.getLsbD 7 :: u.stream := by
        rw [State.stream, h0, budget_pred s hb, hp'.1, ← hu]; simp [cachedBits, State.stream]
      have he : u.streamEnd = s.streamEnd := by
        rw [State.streamEnd, State.streamEnd, budget_pred s hb, hp'.2.1, ← hu]; simp
      have hlt : u.stream.length < n := by rw [hs, List.length_cons] at hl; omega
      obtain ⟨t, ht, h1, h2, h4, h3⟩ := ih u hlt
      rw [he] at ht h3
      refine ⟨t, ?_, h1, ?_, ?_, h3⟩
      · have hn : n + 1 - s.stream.length = n - u.stream.length := by rw [hs, List.length_cons]; omega
        rw [fieldLoop, h, hn, ← ht, ← hu]
      · rw [budget_pred s hb, hp'.1]; subst hu; simp at h2 ⊢; omega
      · rw [budget_pred s hb, hp'.2.2, h4, ← hu]; simp
    · have hp' := (sourceBytes_pull s.srcOutstanding (s.budget - 1#32).toNat s.source).2.1 r rest hr hp
      rw [← budget_pred s hb] at hp'
      have he : s.streamEnd = .failed := hp'.2.1
      exact ⟨_, by rw [fieldLoop, h, he], by simpa using h0, by simp [hp'.1], by simp [hp'.2.2],
        by simp [he], by simp [he]⟩
    · have hp' := (sourceBytes_pull s.srcOutstanding (s.budget - 1#32).toNat s.source).2.2 o rest hp
      rw [← budget_pred s hb] at hp'
      have he : s.streamEnd = .waits := hp'.2.1
      have hs : s.stream = [] := by simp [State.stream, h0, hp'.1, cachedBits]
      exact ⟨_, by rw [fieldLoop, h, he, hs]; rfl, by simpa using h0, by simp [hp'.1],
        by simp [hp'.2.2], by simp [he], fun _ => by cases o <;> simp [busy]⟩

/-! Commands. -/

/-- The fields no command but INIT writes before its outcome: all of them but those of the reader, the accumulator, the
temporaries of NS, `ENGINE_STATE`, `job`, and the source port. -/
structure CommandFrame (s t : State) : Prop where
  initDone : t.initDone = s.initDone
  fault : t.fault = s.fault
  faultCause : t.faultCause = s.faultCause
  rspPending : t.rspPending = s.rspPending
  rspStatus : t.rspStatus = s.rspStatus
  rspValue : t.rspValue = s.rspValue
  cmd : t.cmd = s.cmd
  host : t.host = s.host
  cmdIndex : t.cmdIndex = s.cmdIndex
  rspLog : t.rspLog = s.rspLog
  rst : t.rst = s.rst

theorem ReadFrame.toCommandFrame {s t : State} (h : ReadFrame s t) : CommandFrame s t :=
  ⟨h.initDone, h.fault, h.faultCause, h.rspPending, h.rspStatus, h.rspValue, h.cmd, h.host, h.cmdIndex, h.rspLog,
    h.rst⟩

theorem CommandFrame.trans {s t u : State} (h : CommandFrame s t) (k : CommandFrame t u) : CommandFrame s u := by
  cases h; cases k; constructor <;> simp_all

/-- What a command without an abort ends in, from a state that `R` relates to its start: a response, or a wait. -/
inductive CommandEnd (R : State → State → Prop) (s : State) : State → Prop
  | ok (v : Value) (t : State) : R s t → CommandEnd R s (respond .ok v t)
  | failed (st : Status) (t : State) : st = .endOfBudget ∨ st = .sourceExhausted → R s t →
      CommandEnd R s (respond st 0#64 t)
  | waits (j : Job) (t : State) : busy t = true → R s t → CommandEnd R s (suspend j t)

theorem CommandEnd.mono {R Q : State → State → Prop} {s s' t : State} (h : CommandEnd R s t)
    (hq : ∀ u, R s u → Q s' u) : CommandEnd Q s' t := by
  cases h with
  | ok v t h => exact .ok v t (hq _ h)
  | failed st t h1 h => exact .failed st t h1 (hq _ h)
  | waits j t h1 h => exact .waits j t h1 (hq _ h)

theorem runReadBit_end (s : State) : CommandEnd ReadFrame s (runReadBit s) := by
  have hf := (bitRead_frame s).1
  obtain ⟨_, h⟩ | ⟨_, _, h⟩ | ⟨_, _, _, _, _, h⟩ | ⟨_, _, _, _, _, _, h⟩ | ⟨_, _, o, _, _, _, h⟩ := bitRead_cases s <;>
    rw [h] at hf <;> simp only [runReadBit, h]
  · exact .ok _ _ hf
  · exact .failed _ _ (.inl rfl) hf
  · exact .ok _ _ hf
  · exact .failed _ _ (.inr rfl) hf
  · exact .waits _ _ (by cases o <;> simp [busy]) hf

theorem runField_end (ty : FieldType) (n : Nat) (s : State) : CommandEnd ReadFrame s (runField ty n s) := by
  have hf := fieldLoop_frame n s
  rcases fieldLoop_cases n s with ⟨t, h⟩ | ⟨st, t, h1, h⟩ | ⟨k, t, _, _, h3, h⟩ <;> rw [h] at hf <;> simp only [runField, h]
  · exact .ok _ _ hf
  · exact .failed _ _ h1 hf
  · exact .waits _ _ h3 hf

theorem runNsExtra_end (s : State) : CommandEnd ReadFrame s (runNsExtra s) := by
  have hf := fieldLoop_frame 1 s
  rcases fieldLoop_cases 1 s with ⟨t, h⟩ | ⟨st, t, h1, h⟩ | ⟨k, t, _, _, h3, h⟩ <;> rw [h] at hf <;> simp only [runNsExtra, h]
  · exact .ok _ _ hf
  · exact .failed _ _ h1 hf
  · exact .waits _ _ h3 hf

theorem setNsV_frame (v : Word32) (s : State) : CommandFrame s (setNsV v s) := by constructor <;> rfl

theorem clearAcc_frame (s : State) : CommandFrame s (clearAcc s) := by constructor <;> rfl

theorem setNsParams_frame (n : Word32) (s : State) : CommandFrame s (setNsParams n s) := by constructor <;> rfl

theorem runNsFirst_end (n : Nat) (s : State) : CommandEnd CommandFrame s (runNsFirst n s) := by
  have hf := (fieldLoop_frame n s).toCommandFrame
  rcases fieldLoop_cases n s with ⟨t, h⟩ | ⟨st, t, h1, h⟩ | ⟨k, t, _, _, h3, h⟩ <;> rw [h] at hf <;> simp only [runNsFirst, h]
  · rw [afterNsFirst]
    split
    · exact .ok _ _ (hf.trans (setNsV_frame _ _))
    · exact (runNsExtra_end _).mono fun _ hu =>
        hf.trans ((setNsV_frame _ _).trans ((clearAcc_frame _).trans hu.toCommandFrame))
  · exact .failed _ _ h1 hf
  · exact .waits _ _ h3 hf

theorem resume_end (s : State) (h : s.job.isSome = true) : CommandEnd CommandFrame s (resume s) := by
  unfold resume
  split
  · simp_all
  · exact (runReadBit_end s).mono fun _ => ReadFrame.toCommandFrame
  · exact (runField_end _ _ s).mono fun _ => ReadFrame.toCommandFrame
  · exact runNsFirst_end _ s
  · exact (runNsExtra_end s).mono fun _ => ReadFrame.toCommandFrame

/-- An F command is `execField` of its type. -/
theorem exec_field (ty : FieldType) (n : Word32) (s : State) : exec (ty.command n) s = .next (execField ty n s) := by
  cases ty <;> rfl

/-- The commands, the six of F as one shape. -/
theorem instr_cases (i : Instr) :
    (∃ b, i = .init b) ∨ i = .readBit ∨ (∃ ty n, i = FieldType.command ty n) ∨ ∃ n, i = .ns n := by
  cases i
  case init b => exact .inl ⟨b, rfl⟩
  case readBit => exact .inr (.inl rfl)
  case fBool n => exact .inr (.inr (.inl ⟨.bool, n, rfl⟩))
  case fU8 n => exact .inr (.inr (.inl ⟨.u8, n, rfl⟩))
  case fU16 n => exact .inr (.inr (.inl ⟨.u16, n, rfl⟩))
  case fU32 n => exact .inr (.inr (.inl ⟨.u32, n, rfl⟩))
  case fU64 n => exact .inr (.inr (.inl ⟨.u64, n, rfl⟩))
  case fWord n => exact .inr (.inr (.inl ⟨.word, n, rfl⟩))
  case ns n => exact .inr (.inr (.inr ⟨n, rfl⟩))

/-- The check every command but INIT begins with. -/
theorem whenInitialised_cases (s run : State) :
    (s.initDone = false ∧ whenInitialised s run = raiseAbort .notInitialised s) ∨
      (s.initDone = true ∧ whenInitialised s run = run) := by
  cases h : s.initDone
  · exact .inl ⟨rfl, by simp [whenInitialised, h]⟩
  · exact .inr ⟨rfl, by simp [whenInitialised, h]⟩

/-- What an F command does: one of its two aborts, or the field. -/
theorem execField_cases (ty : FieldType) (n : Word32) (s : State) :
    (s.initDone = false ∧ execField ty n s = raiseAbort .notInitialised s) ∨
      (s.initDone = true ∧ 32 < n.toNat ∧ execField ty n s = raiseAbort .fWidth s) ∨
      (s.initDone = true ∧ n.toNat ≤ 32 ∧ execField ty n s = runField ty n.toNat (clearAcc s)) := by
  rcases whenInitialised_cases s (if widthTooLarge n then raiseAbort .fWidth s else runField ty n.toNat (clearAcc s)) with
    h | ⟨hi, h⟩
  · exact .inl h
  · by_cases hn : 32 < n.toNat
    · exact .inr (.inl ⟨hi, hn, h.trans (if_pos (decide_eq_true hn))⟩)
    · exact .inr (.inr ⟨hi, by omega, h.trans (if_neg fun h => hn (of_decide_eq_true h))⟩)

/-- What NS does: one of its two aborts, or the codeword. -/
theorem runNs_cases (n : Word32) (s : State) :
    (s.initDone = false ∧ runNs n s = raiseAbort .notInitialised s) ∨
      (s.initDone = true ∧ n = 0#32 ∧ runNs n s = raiseAbort .nsZero s) ∨
      (s.initDone = true ∧ n ≠ 0#32 ∧ runNs n s = runNsFirst (nsWidth n - 1) (clearAcc (setNsParams n s))) := by
  rcases whenInitialised_cases s (if alphabetEmpty n then raiseAbort .nsZero s
      else runNsFirst (nsWidth n - 1) (clearAcc (setNsParams n s))) with h | ⟨hi, h⟩
  · exact .inl h
  · by_cases hn : n = 0#32
    · exact .inr (.inl ⟨hi, hn, h.trans (if_pos (by simpa [alphabetEmpty] using hn))⟩)
    · exact .inr (.inr ⟨hi, hn, h.trans (if_neg (by simpa [alphabetEmpty] using hn))⟩)

/-- What a command is: INIT, an abort with its cause, or the run of its body from an initialised reader. -/
theorem exec_cases (i : Instr) (s t : State) (h : exec i s = .next t) :
    (∃ b, i = .init b ∧ t = respond .ok 0#64 (startReader b s)) ∨
    (∃ c, t = raiseAbort c s ∧
      ((s.initDone = false ∧ c = .notInitialised) ∨
        (s.initDone = true ∧ c = .fWidth ∧ ∃ ty n, i = FieldType.command ty n ∧ 32 < n.toNat) ∨
        (s.initDone = true ∧ c = .nsZero ∧ i = .ns 0#32))) ∨
    (s.initDone = true ∧
      ((i = .readBit ∧ t = runReadBit s) ∨
        (∃ ty n, i = FieldType.command ty n ∧ n.toNat ≤ 32 ∧ t = runField ty n.toNat (clearAcc s)) ∨
        (∃ n, i = .ns n ∧ n ≠ 0#32 ∧ t = runNsFirst (nsWidth n - 1) (clearAcc (setNsParams n s))))) := by
  rcases instr_cases i with ⟨b, rfl⟩ | rfl | ⟨ty, n, rfl⟩ | ⟨n, rfl⟩
  · injection h with h; exact .inl ⟨b, rfl, h.symm⟩
  · injection h with h; subst h
    rcases whenInitialised_cases s (runReadBit s) with ⟨hi, h⟩ | ⟨hi, h⟩
    · exact .inr (.inl ⟨_, h, .inl ⟨hi, rfl⟩⟩)
    · exact .inr (.inr ⟨hi, .inl ⟨rfl, h⟩⟩)
  · rw [exec_field] at h; injection h with h; subst h
    rcases execField_cases ty n s with ⟨hi, h⟩ | ⟨hi, hn, h⟩ | ⟨hi, hn, h⟩
    · exact .inr (.inl ⟨_, h, .inl ⟨hi, rfl⟩⟩)
    · exact .inr (.inl ⟨_, h, .inr (.inl ⟨hi, rfl, ty, n, rfl, hn⟩)⟩)
    · exact .inr (.inr ⟨hi, .inr (.inl ⟨ty, n, rfl, hn, h⟩)⟩)
  · injection h with h; subst h
    rcases runNs_cases n s with ⟨hi, h⟩ | ⟨hi, hn, h⟩ | ⟨hi, hn, h⟩
    · exact .inr (.inl ⟨_, h, .inl ⟨hi, rfl⟩⟩)
    · exact .inr (.inl ⟨_, h, .inr (.inr ⟨hi, rfl, by rw [hn]⟩)⟩)
    · exact .inr (.inr ⟨hi, .inr (.inr ⟨n, rfl, hn, h⟩)⟩)

/-- Every command ends in a next state. -/
theorem exec_next (i : Instr) (s : State) : ∃ t, exec i s = .next t := by cases i <;> exact ⟨_, rfl⟩

/-! A step. -/

theorem cmdReady_iff (s : State) :
    cmdReady s = true ↔
      s.engineState = .idle ∧ s.rspPending = false ∧ s.fault = false ∧ rstAsserted s = false := by
  simp [cmdReady, and_assoc]

theorem resetDue_iff {s : State} : resetDue s = true ↔ ∃ hs, s.host = .reset :: hs := by
  unfold resetDue
  split <;> simp_all

/-- A step that answers a next state: a reset, `rst` raised, a command going on, a response taken, nothing,
or a word accepted. -/
theorem step_cases (s t : State) (h : step s = .next t) :
    (rstAsserted s = true ∧ t = engineReset s) ∨
    (rstAsserted s = false ∧ (∃ hs, s.host = .reset :: hs) ∧ t = raiseRst s) ∨
    (rstAsserted s = false ∧ resetDue s = false ∧ busy s = true ∧ t = resume s) ∨
    (s.engineState = .idle ∧ rstAsserted s = false ∧ (∃ hs, s.host = .takeResponse :: hs) ∧ t = takeResponse s) ∨
    (s.engineState = .idle ∧ rstAsserted s = false ∧ t = s) ∨
    (∃ w hs, cmdReady s = true ∧ s.host = .command w :: hs ∧
      ((∃ e, decode w = .error e ∧ t = raiseAbort .illegalCommand (latchCommand w s)) ∨
        (∃ i, decode w = .ok i ∧ exec i (latchCommand w s) = .next t))) := by
  unfold step at h
  cases hr : rstAsserted s
  · cases hd : resetDue s
    · cases he : s.engineState
      · cases hh : s.host with
        | nil => simp [takeTurn, turn, hr, hd, he, hh] at h; simp [h]
        | cons a hs =>
          cases a with
          | reset => simp [resetDue, hh] at hd
          | takeResponse => simp [takeTurn, turn, hr, hd, he, hh] at h; simp [h]
          | command w =>
            cases hc : cmdReady s
            · simp [takeTurn, turn, hr, hd, he, hh, hc] at h; simp [h]
            · simp only [takeTurn, acceptCommand, turn, hr, hd, he, hh, hc] at h
              refine .inr (.inr (.inr (.inr (.inr ⟨w, hs, rfl, rfl, ?_⟩))))
              simp only [Bool.false_eq_true, if_false, if_true] at h
              split at h
              · exact .inr ⟨_, ‹_›, h⟩
              · injection h with h; exact .inl ⟨_, ‹_›, h.symm⟩
      · simp [takeTurn, turn, hr, hd, he] at h; simp [busy, he, h]
      · simp [takeTurn, turn, hr, hd, he] at h; simp [busy, he, h]
      · simp [takeTurn, turn, hr, hd, he] at h
    · obtain ⟨hs, hh⟩ := resetDue_iff.1 hd
      simp [takeTurn, turn, hr, hd] at h; simp [h, hh]
  · simp [takeTurn, turn, hr] at h; simp [h]

end Sys2Proof.Machine
end

