-- ==== Sys2Proof/Laws/Decode.lean ====
section
/-! SUPPORT. What the decoder can do: it accepts exactly the well-formed fields, and reads back the fields of the command. -/

namespace Sys2Proof

/-- A command the decoder reads has the fields it was read from. -/
theorem decodeFields_inv (f : Fields) (i : Instr) (h : decodeFields f = .ok i) : f = i.fields := by
  obtain ⟨op, ty, rsv, opd⟩ := f
  unfold decodeFields at h
  simp only at h
  split at h
  · cases h
  rename_i hr
  simp only [ne_eq, Decidable.not_not] at hr
  split at h
  · split at h <;> cases h
    simp_all [Instr.fields]
  split at h
  · split at h
    · cases h
    split at h <;> cases h
    simp_all [Instr.fields]
  split at h
  · unfold decodeType at h
    repeat' split at h
    all_goals cases h
    all_goals simp_all [Instr.fields, FieldType.code]
  split at h
  · split at h <;> cases h
    simp_all [Instr.fields]
  · cases h

/-- The decoder reads the fields of every command as that command. -/
theorem decodeFields_fields (i : Instr) : decodeFields i.fields = .ok i := by cases i <;> rfl

/-- The decoder reads a command from exactly the well-formed fields (30_encoding R76, R77). -/
theorem decodeFields_ok_iff (f : Fields) : (∃ i, decodeFields f = .ok i) ↔ f.wellFormed = true := by
  constructor
  · rintro ⟨i, h⟩
    rw [decodeFields_inv f i h]
    cases i <;> simp [Instr.fields, Fields.wellFormed, Fields.rsvZero, Fields.opKnown, Fields.tyLegal, Fields.operandLegal,
      FieldType.code]
  · obtain ⟨op, ty, rsv, opd⟩ := f
    intro h
    simp only [Fields.wellFormed, Fields.rsvZero, Fields.opKnown, Fields.tyLegal, Fields.operandLegal, Bool.and_eq_true,
      Bool.or_eq_true, beq_iff_eq, bne_iff_ne] at h
    obtain ⟨⟨⟨rfl, ho⟩, ht⟩, hd⟩ := h
    rcases ho with ((rfl | rfl) | rfl) | rfl
    · exact ⟨.init opd, by simp_all [decodeFields]⟩
    · exact ⟨.readBit, by simp_all [decodeFields]⟩
    · have : ty = 0#3 ∨ ty = 1#3 ∨ ty = 2#3 ∨ ty = 3#3 ∨ ty = 4#3 ∨ ty = 5#3 := by
        have h5 : ty ≤ 5#3 := by simpa using ht
        bv_omega
      rcases this with rfl | rfl | rfl | rfl | rfl | rfl <;> exact ⟨_, rfl⟩
    · exact ⟨.ns opd, by simp_all [decodeFields]⟩

end Sys2Proof
end

