-- ==== Sys2Proof/Laws/PerInstr.lean ====
section
/-! SUPPORT. Statements made per constructor of Instr. -/

namespace Sys2Proof.Laws

/-- Every value of `Instr` has a legal word: its fields are well formed and the decoder reads them as it (30_encoding R75,
R76, R78, R85). -/
def LegalCommand.Statement (i : Instr) : Prop := i.wellFormed = true ∧ decodeFields i.fields = .ok i

theorem legalCommand_of_decode {i : Instr} (h : decodeFields i.fields = .ok i) : LegalCommand.Statement i :=
  ⟨(decodeFields_ok_iff i.fields).1 ⟨i, h⟩, h⟩

theorem LegalCommand.init (budget : Word32) : LegalCommand.Statement (.init budget) := legalCommand_of_decode rfl

theorem LegalCommand.readBit : LegalCommand.Statement .readBit := legalCommand_of_decode rfl

theorem LegalCommand.fBool (n : Word32) : LegalCommand.Statement (.fBool n) := legalCommand_of_decode rfl

theorem LegalCommand.fU8 (n : Word32) : LegalCommand.Statement (.fU8 n) := legalCommand_of_decode rfl

theorem LegalCommand.fU16 (n : Word32) : LegalCommand.Statement (.fU16 n) := legalCommand_of_decode rfl

theorem LegalCommand.fU32 (n : Word32) : LegalCommand.Statement (.fU32 n) := legalCommand_of_decode rfl

theorem LegalCommand.fU64 (n : Word32) : LegalCommand.Statement (.fU64 n) := legalCommand_of_decode rfl

theorem LegalCommand.fWord (n : Word32) : LegalCommand.Statement (.fWord n) := legalCommand_of_decode rfl

theorem LegalCommand.ns (n : Word32) : LegalCommand.Statement (.ns n) := legalCommand_of_decode rfl

end Sys2Proof.Laws
end

