-- ==== Sys2Proof/Laws/Pulls.lean ====
section
/-! SUPPORT. The accounting of pulls by BitRead and FieldRead: what Safety's `pullsAccount` says, in a form that composes. -/

namespace Sys2Proof.Machine

theorem pulledBytes_append (a b : List PullResult) : pulledBytes (a ++ b) = pulledBytes a ++ pulledBytes b := by
  induction a with
  | nil => rfl
  | cons r a ih => cases r <;> simp [pulledBytes, ih]

theorem pullsUse_append {rs qs : List PullResult} {p q u : Bool × List SrcEvent} (h : pullsUse rs p q)
    (g : pullsUse qs q u) : pullsUse (rs ++ qs) p u := by
  induction rs generalizing p with
  | nil => obtain rfl : q = p := h; exact g
  | cons r rs ih => obtain ⟨es, hp, h⟩ := h; exact ⟨es, hp, ih h⟩

/-- The source port of a state, as pulls see it. -/
def State.port (s : State) : Bool × List SrcEvent := (s.srcOutstanding, s.source)

/-- As `pullsAccount`, with neither a failed nor a waiting pull where `delivered` holds. -/
def PullsBetween (delivered : Bool) (s t : State) : Prop :=
  ∃ rs, t.pullLog = s.pullLog ++ rs ∧ t.budget.toNat + (pulledBytes rs).length = s.budget.toNat ∧
    t.curByte = (pulledBytes rs).getLast?.getD s.curByte ∧
    (∀ r ∈ (if delivered then rs else rs.dropLast), ∃ b, r = .byte b) ∧
    ∃ q, pullsUse rs s.port q ∧
      (t.port = q ∨ delivered = false ∧ pullFrom q.1 q.2 = ⟨none, t.srcOutstanding, t.source⟩)

theorem PullsBetween.toPullsAccount {d : Bool} {s t : State} (h : PullsBetween d s t) : pullsAccount s t := by
  obtain ⟨rs, h1, h2, h3, h4, q, h5, h6⟩ := h
  refine ⟨rs, h1, h2, h3, ?_, q, h5, h6.imp id And.right⟩
  cases d
  · exact h4
  · exact fun r hr => h4 r (List.dropLast_subset _ hr)

/-- Nothing of the reader or of the source port changed. -/
theorem PullsBetween.of_same {d : Bool} {s t : State} (hl : t.pullLog = s.pullLog) (hb : t.budget = s.budget)
    (hc : t.curByte = s.curByte) (hp : t.port = s.port) : PullsBetween d s t :=
  ⟨[], by simp [hl], by simp [pulledBytes, hb], by simp [pulledBytes, hc], by cases d <;> simp, _, rfl, .inl hp⟩

theorem PullsBetween.trans {d : Bool} {s t u : State} (h : PullsBetween true s t) (g : PullsBetween d t u) :
    PullsBetween d s u := by
  obtain ⟨rs, h1, h2, h3, h4, p, h5, h6⟩ := h
  obtain ⟨qs, g1, g2, g3, g4, q, g5, g6⟩ := g
  obtain rfl : t.port = p := by simpa using h6
  refine ⟨rs ++ qs, by rw [g1, h1, List.append_assoc], by rw [pulledBytes_append, List.length_append]; omega, ?_, ?_,
    q, pullsUse_append h5 g5, g6⟩
  · rw [g3, h3, pulledBytes_append]
    cases pulledBytes qs using List.reverseRecOn <;> simp
  · intro r hr
    by_cases hq : qs = []
    · subst hq
      cases d <;> simp at hr
      · exact h4 r (List.dropLast_subset _ hr)
      · exact h4 r hr
    · cases d
      · simp only [Bool.false_eq_true, if_false, List.dropLast_append_of_ne_nil hq, List.mem_append] at hr
        exact hr.elim (h4 r) (fun h => g4 r (by simpa using h))
      · simp only [if_true, List.mem_append] at hr
        exact hr.elim (h4 r) (fun h => g4 r (by simpa using h))

/-- BitRead makes at most one pull, counted; a successful one made no failing pull. -/
theorem bitRead_pulls (s : State) :
    (∀ b t, bitRead s = (.ok b, t) → PullsBetween true s t) ∧ PullsBetween false s (bitRead s).2 ∧
      (bitRead s).2.pullLog.length ≤ s.pullLog.length + 1 := by
  obtain ⟨_, h⟩ | ⟨_, _, h⟩ | ⟨_, hb, b, rest, hp, h⟩ | ⟨_, _, r, rest, hr, hp, h⟩ | ⟨_, _, o, rest, hp, _, h⟩ :=
    bitRead_cases s <;> rw [h]
  · refine ⟨fun b t e => ?_, .of_same rfl rfl rfl rfl, by simp⟩
    cases e; exact .of_same rfl rfl rfl rfl
  · exact ⟨by simp, .of_same rfl rfl rfl rfl, by simp⟩
  · have hb' := budget_pred s hb
    have all (d : Bool) : PullsBetween d s (dropBit (storeByte b (pullAnswered (.byte b) rest s))) :=
      ⟨[.byte b], by simp, by simp [pulledBytes]; omega, by simp [pulledBytes], by cases d <;> simp, (false, rest),
        ⟨rest, hp, rfl⟩, .inl rfl⟩
    exact ⟨fun b' t e => by cases e; exact all true, all false, by simp⟩
  · refine ⟨by simp, ⟨[r], by simp, ?_, ?_, by simp, (false, rest), ⟨rest, hp, rfl⟩, .inl rfl⟩, by simp⟩ <;>
      rcases hr with rfl | rfl <;> simp [pulledBytes]
  · exact ⟨by simp, ⟨[], by simp, by simp [pulledBytes], by simp [pulledBytes], by simp, s.port, rfl, .inr ⟨rfl, hp⟩⟩,
      by simp⟩

/-- FieldRead counts its pulls; one that succeeds made no failing pull. -/
theorem fieldLoop_pulls (n : Nat) (s : State) :
    (∀ a t, fieldLoop n s = (.ok a, t) → PullsBetween true s t) ∧ PullsBetween false s (fieldLoop n s).2 := by
  induction n generalizing s with
  | zero => exact ⟨fun a t e => by cases e; exact .of_same rfl rfl rfl rfl, .of_same rfl rfl rfl rfl⟩
  | succ n ih =>
    have hb := bitRead_pulls s
    rw [fieldLoop]
    split
    · rename_i b t h
      have h1 : PullsBetween true s (shiftIn b t) := hb.1 b t h
      exact ⟨fun a u e => h1.trans ((ih _).1 a u e), h1.trans (ih _).2⟩
    · rename_i h; rw [h] at hb; exact ⟨by simp, hb.2.1⟩
    · rename_i h; rw [h] at hb; exact ⟨by simp, hb.2.1⟩

end Sys2Proof.Machine
end

