-- ==== Sys2Proof/Tests/Slice0.lean ====
section
/-! SUPPORT. Tests of the model against the spec's own vectors (spec/95_test_vectors.md; each names its vector or rule), the
checks of WellFormed, and for every obligation with hypotheses a state and operands that meet them. -/

namespace Sys2Proof.Machine.Tests

/-! ## Helpers -/

/-- The events of a source that answers successive pulls so (20_memory R68). -/
def answers : List PullResult → List SrcEvent
  | [] => []
  | .byte b :: rs => .ready :: .answer false 1#1 b :: answers rs
  | .short :: rs => .ready :: .answer false 0#1 0#8 :: answers rs
  | .fail :: rs => .ready :: .answer true 0#1 0#8 :: answers rs

/-- A reader at rest, `BUDGET / BITS_LEFT / CUR_BYTE` as the vectors write it. -/
def reader (budget : Word32) (left : BitVec 4) (byte : Byte) (rs : List PullResult) : State :=
  { State.reset with budget := budget, bitsLeft := left, curByte := byte, initDone := true, source := answers rs }

/-- A reader whose source delivers bytes. -/
def bytes (budget : Word32) (bs : List Byte) : State := reader budget 0#4 0#8 (bs.map .byte)

/-- The host offers these actions. -/
def offering (hs : List HostAction) (s : State) : State := { s with host := hs }

/-- `rst` is 1, and the host does these actions after its edge. -/
def resetting (hs : List HostAction) (s : State) : State := { s with rst := true, host := hs }

/-- The response a command ended in, and the reader after it. -/
def shown : Host.Outcome State Fault Refusal → Option (BitVec 2 × Value × Word32 × BitVec 4 × Byte)
  | .next t =>
    if t.rspPending && t.engineState == .idle then some (t.rspStatus, t.rspValue, t.budget, t.bitsLeft, t.curByte) else none
  | .fault _ => none
  | .refused _ => none

/-- STAT after an abort. -/
def aborted : Host.Outcome State Fault Refusal → Option (BitVec 64)
  | .next t => if t.engineState == .halted && !t.rspPending then some (stat t) else none
  | .fault _ => none
  | .refused _ => none

/-- A command that waits for its second byte, one bit of its field read from the cache: `f.u8 5` from `2 / 1 / 0x01`, the
request accepted. -/
def waiting : State :=
  { reader 2#32 0#4 0x01#8 [] with
    acc := 1#32, engineState := .waitSrc, srcOutstanding := true, job := some (.field .u8 4),
    cmd := 0x0000000500000013#64, cmdIndex := 2, rspLog := [⟨0#2, 0#64⟩] }

/-- A response pending after `read_bit` gave 1. -/
def answered : State := { reader 0#32 7#4 0x80#8 [] with rspPending := true, rspValue := 1#64 }

/-- An engine that an F_WIDTH abort has halted. -/
def halted : State := { reader 1#32 0#4 0x00#8 [] with fault := true, faultCause := 3#4, engineState := .halted }

/-! ## Well-formedness: an ill-formed term for each check -/

theorem test_wf_accepts : (Instr.fU8 33#32).wellFormed = true ∧ (Instr.ns 0#32).wellFormed = true := by decide

theorem test_wf_rsv : (⟨3#4, 0#3, 1#25, 0#32⟩ : Fields).wellFormed = false := by decide

theorem test_wf_op : (⟨0#4, 0#3, 0#25, 0#32⟩ : Fields).wellFormed = false ∧
    (⟨5#4, 0#3, 0#25, 0#32⟩ : Fields).wellFormed = false := by decide

theorem test_wf_type : (⟨3#4, 6#3, 0#25, 0#32⟩ : Fields).wellFormed = false ∧
    (⟨4#4, 1#3, 0#25, 0#32⟩ : Fields).wellFormed = false := by decide

theorem test_wf_operand : (⟨2#4, 0#3, 0#25, 1#32⟩ : Fields).wellFormed = false := by decide

theorem test_wf_asm : (⟨.ns, none⟩ : AsmLine).wellFormed = false ∧ (⟨.readBit, some 0⟩ : AsmLine).wellFormed = false ∧
    (⟨.init, some (2 ^ 32)⟩ : AsmLine).wellFormed = false ∧ (⟨.init, some (2 ^ 32 - 1)⟩ : AsmLine).wellFormed = true := by
  decide

/-! ## Decode: words of the spec (30_encoding R85 and the vectors), one for each constructor -/

/-- I-2. -/
theorem test_decode_init : decode 0xFFFFFFFF00000001#64 = .ok (.init 0xFFFFFFFF#32) := by decide

/-- L1-5. -/
theorem test_decode_read_bit : decode 0x0000000000000002#64 = .ok .readBit := by decide

/-- F-2. -/
theorem test_decode_f_bool : decode 0x0000000200000003#64 = .ok (.fBool 2#32) := by decide

/-- F-1. -/
theorem test_decode_f_u8 : decode 0x0000000900000013#64 = .ok (.fU8 9#32) := by decide

/-- F-3. -/
theorem test_decode_f_u16 : decode 0x0000001400000023#64 = .ok (.fU16 20#32) := by decide

/-- F-7. -/
theorem test_decode_f_u32 : decode 0x0000002100000033#64 = .ok (.fU32 33#32) := by decide

/-- F-8. -/
theorem test_decode_f_u64 : decode 0xFFFFFFFF00000043#64 = .ok (.fU64 0xFFFFFFFF#32) := by decide

/-- F-4. -/
theorem test_decode_f_word : decode 0x0000002000000053#64 = .ok (.fWord 32#32) := by decide

/-- S-7. -/
theorem test_decode_ns : decode 0x8000000000000004#64 = .ok (.ns 0x80000000#32) := by decide

/-- D-1 to D-10 and D-14, each under its name. -/
theorem test_decode_illegal :
    decode 0x0000000000000000#64 = .error .reservedOp ∧ decode 0x0000000000000005#64 = .error .reservedOp ∧
    decode 0x000000000000000F#64 = .error .reservedOp ∧ decode 0x0000000000000063#64 = .error .reservedType ∧
    decode 0x0000000000000073#64 = .error .reservedType ∧ decode 0x0000000000000012#64 = .error .typeNotZero ∧
    decode 0x0000000100000002#64 = .error .operandNotZero ∧ decode 0x0000000000000014#64 = .error .typeNotZero ∧
    decode 0x0000000080000003#64 = .error .reservedBitsSet ∧ decode 0x00000000FFFFFFFF#64 = .error .reservedBitsSet ∧
    decode 0x0000000000000011#64 = .error .typeNotZero := by decide

/-- The words of program P3, and F-7: the encoder. -/
theorem test_encode : encode (.init 4#32) = 0x0000000400000001#64 ∧ encode .readBit = 0x0000000000000002#64 ∧
    encode (.fBool 4#32) = 0x0000000400000003#64 ∧ encode (.fU16 7#32) = 0x0000000700000023#64 ∧
    encode (.fU32 33#32) = 0x0000002100000033#64 ∧ encode (.fU64 0#32) = 0x0000000000000043#64 ∧
    encode (.fWord 32#32) = 0x0000002000000053#64 ∧ encode (.ns 0xFFFFFFFF#32) = 0xFFFFFFFF00000004#64 := by decide

/-- The assembler (30_encoding R86): a line of P4 with its comment, hexadecimal of I-2, and what it refuses. -/
theorem test_assemble :
    assembleText "f.u32 33        ; 0x0000002100000033".toList = .ok (some 0x0000002100000033#64) ∧
    assembleText "init 0xFFFFFFFF".toList = .ok (some 0xFFFFFFFF00000001#64) ∧
    assembleText "ns 0".toList = .ok (some 0x0000000000000004#64) ∧ assembleText "; only a comment".toList = .ok none ∧
    assembleText "read_bit 0".toList = .error .wrongOperandCount ∧ assembleText "f.u8".toList = .error .wrongOperandCount ∧
    assembleText "init 4294967296".toList = .error .operandTooWide ∧ assembleText "init -1".toList = .error .badNumber ∧
    assembleText "f.u24 1".toList = .error .unknownMnemonic := by decide

/-- The host's numbering is the word itself (30_encoding R85); a number cut to 32 bits has operand 0. -/
theorem test_table_word : decodeTableWord 64 0x0000000900000013 = some (.fU8 9#32) ∧
    decodeTableWord 32 0x00000013 = some (.fU8 0#32) ∧ decodeTableWord 64 0 = none := by decide

/-- A placed word is the first command after reset: I-1 through the host's interface. -/
theorem test_fetch_word :
    shown (step (State.reset.withFetchWord 64 0x0000000000000001)) = some (0#2, 0#64, 0#32, 0#4, 0x00#8) := by decide

/-! ## One command each -/

/-- I-3, the second INIT: the seven unread bits of `0xF0` are discarded. -/
theorem test_init_discards : shown (exec (.init 1#32) (reader 1#32 7#4 0xF0#8 [])) =
    some (0#2, 0#64, 1#32, 0#4, 0x00#8) := by decide

/-- R-6. -/
theorem test_read_bit : shown (exec .readBit (bytes 0xFFFFFFFF#32 [0x40#8])) =
    some (0#2, 0#64, 0xFFFFFFFE#32, 7#4, 0x40#8) := by decide

/-- R-5: a failure wins over a count of 1. -/
theorem test_read_bit_failure_wins :
    shown (exec .readBit { reader 2#32 0#4 0#8 [] with source := [.ready, .answer true 1#1 0xFF#8] }) =
      some (2#2, 0#64, 2#32, 0#4, 0x00#8) := by decide

/-- F-2. -/
theorem test_f_bool : shown (exec (.fBool 2#32) (bytes 1#32 [0x80#8])) = some (0#2, 1#64, 0#32, 6#4, 0x80#8) := by decide

/-- F-14. -/
theorem test_f_bool_zero : shown (exec (.fBool 8#32) (bytes 1#32 [0x00#8])) = some (0#2, 0#64, 0#32, 0#4, 0x00#8) := by
  decide

/-- F-1. -/
theorem test_f_u8 : shown (exec (.fU8 9#32) (bytes 2#32 [0x80#8, 0x80#8])) = some (0#2, 1#64, 0#32, 7#4, 0x80#8) := by
  decide

/-- F-9. -/
theorem test_f_u8_end : shown (exec (.fU8 12#32) (bytes 1#32 [0xFF#8])) = some (1#2, 0#64, 0#32, 0#4, 0xFF#8) := by decide

/-- F-3. -/
theorem test_f_u16 : shown (exec (.fU16 20#32) (bytes 3#32 [0xAB#8, 0xCD#8, 0xEF#8])) =
    some (0#2, 0xBCDE#64, 0#32, 4#4, 0xEF#8) := by decide

/-- F-10. -/
theorem test_f_u16_short : shown (exec (.fU16 16#32) (reader 2#32 0#4 0#8 [.byte 0x12#8, .short])) =
    some (2#2, 0#64, 1#32, 0#4, 0x12#8) := by decide

/-- F-12. -/
theorem test_f_u32 : shown (exec (.fU32 32#32) (bytes 4#32 [0xFF#8, 0xFF#8, 0xFF#8, 0xFF#8])) =
    some (0#2, 0xFFFFFFFF#64, 0#32, 0#4, 0xFF#8) := by decide

/-- F-7. -/
theorem test_f_u32_wide : aborted (exec (.fU32 33#32) (bytes 1#32 [])) = some 0x0000F00000000001#64 := by decide

/-- F-13. -/
theorem test_f_u64 : shown (exec (.fU64 32#32) (bytes 4#32 [0xFF#8, 0xFF#8, 0xFF#8, 0xFF#8])) =
    some (0#2, 0xFFFFFFFF#64, 0#32, 0#4, 0xFF#8) := by decide

/-- F-4, F-5, F-6: the narrowing of `0xDEADBEEF` at each width of the platform word, which `Config.wordBits` leaves open. -/
theorem test_f_word : narrow .w16 .word 0xDEADBEEF#32 = 0xBEEF#64 ∧ narrow .w32 .word 0xDEADBEEF#32 = 0xDEADBEEF#64 ∧
    narrow .w64 .word 0xDEADBEEF#32 = 0xDEADBEEF#64 := by decide

/-- D-12: NOT_INITIALISED wins over F_WIDTH. -/
theorem test_f_word_not_initialised : aborted (exec (.fWord 40#32) State.reset) = some 0x0000A00000000000#64 := by decide

/-- S-4: `W = 32`, the long path. -/
theorem test_ns_long : shown (exec (.ns 0xFFFFFFFF#32) (bytes 4#32 [0#8, 0#8, 0#8, 2#8])) =
    some (0#2, 1#64, 0#32, 0#4, 0x02#8) := by decide

/-- S-2: the extra bit fails, the two bits of `V` stay consumed. -/
theorem test_ns_extra_fails : shown (exec (.ns 6#32) (reader 0#32 2#4 0x02#8 [])) = some (1#2, 0#64, 0#32, 0#4, 0x02#8) := by
  decide

/-- D-8: an illegal word wins over NS_ZERO; the STAT of section 2.1. -/
theorem test_illegal_step : aborted (step (offering [.command 0x0000000000000014#64] (bytes 1#32 []))) =
    some 0x0000700000000001#64 := by decide

/-- 30_encoding R83, 70_reset R242 and F-7: an aborted engine that is going to be reset shows `abort` and its STAT; once `rst`
is 1 both are 0. -/
theorem test_outputs_reset :
    abortOut (offering [.reset] halted) = true ∧ stat (offering [.reset] halted) = 0x0000F00000000001#64 ∧
      step (offering [.reset] halted) = .next (resetting [] halted) ∧ abortOut (resetting [] halted) = false ∧
      stat (resetting [] halted) = 0#64 := ⟨by decide, by decide, rfl, by decide, by decide⟩

/-- 70_reset R240: `rst` held for a second edge, with the engine back in IDLE and not ready before it falls. -/
theorem test_reset_held :
    step (resetting [.reset, .command 2#64] waiting) =
        .next { State.reset with rst := true, host := [.command 2#64], cmdIndex := 2, rspLog := [⟨0#2, 0#64⟩] } ∧
      step (resetting [.command 2#64] State.reset) = .next { State.reset with host := [.command 2#64] } := ⟨rfl, rfl⟩

/-! ## Every obligation with hypotheses: a state and operands that meet them -/

theorem meets_EncodeInvertsDecode : decode 0xFFFFFFFF00000004#64 = .ok (.ns 0xFFFFFFFF#32) := by decide

/-- An illegal word of each kind, offered to a ready engine. -/
theorem meets_IllegalWordsAbort :
    (∀ w : CmdWord, cmdReady (offering [.command w] State.reset) = true ∧
      (offering [.command w] State.reset).host = .command w :: []) ∧
    decode 0x0000000000000000#64 = .error .reservedOp ∧ decode 0x0000000000000005#64 = .error .reservedOp ∧
    decode 0x0000000000000063#64 = .error .reservedType ∧ decode 0x0000000000000012#64 = .error .typeNotZero ∧
    decode 0x0000000100000002#64 = .error .operandNotZero ∧ decode 0x0000000080000003#64 = .error .reservedBitsSet :=
  ⟨fun _ => ⟨rfl, rfl⟩, by decide, by decide, by decide, by decide, by decide, by decide⟩

theorem meets_LegalWordMatchesOneRow :
    (∃ i, decode 0xFFFFFFFF00000053#64 = .ok i) ∧ ∃ e, decode 0x0000000000000073#64 = .error e :=
  ⟨⟨_, rfl⟩, _, rfl⟩

/-- `f.* 33`, `ns 0` and the largest operand are taken; one more is refused. -/
theorem meets_AssemblerTakesWellFormedLines :
    assemble ⟨.f .u8, some 33⟩ = .ok 0x0000002100000013#64 ∧ assemble ⟨.ns, some 0⟩ = .ok 0x0000000000000004#64 ∧
    assemble ⟨.init, some (2 ^ 32 - 1)⟩ = .ok 0xFFFFFFFF00000001#64 ∧
    assemble ⟨.init, some (2 ^ 32)⟩ = .error .operandTooWide := by decide

theorem meets_StepRunsDecodedCommand :
    (offering [.command 0x0000000000000002#64] State.reset).engineState = .idle ∧
      (offering [.command 0x0000000000000002#64] State.reset).rspPending = false ∧
      (offering [.command 0x0000000000000002#64] State.reset).fault = false ∧
      rstAsserted (offering [.command 0x0000000000000002#64] State.reset) = false ∧
      (offering [.command 0x0000000000000002#64] State.reset).host = .command 0x0000000000000002#64 :: [] ∧
      decode 0x0000000000000002#64 = .ok .readBit := by decide

theorem meets_CommandsAcceptedOnlyWhenReady :
    ∃ t, step (offering [.command 0x0000000100000001#64] State.reset) = .next t ∧
      t.cmdIndex ≠ (offering [.command 0x0000000100000001#64] State.reset).cmdIndex := ⟨_, rfl, by decide⟩

/-- A reset that meets a waiting command with a pull outstanding, a pending response, and an abort. -/
theorem meets_ResetFromEveryState :
    (∀ s ∈ [offering [.reset] waiting, offering [.reset] answered, offering [.reset] halted],
        rstAsserted s = false ∧ s.host = .reset :: []) ∧
      (∀ s ∈ [resetting [.command 2#64] waiting, resetting [] answered, resetting [] halted],
        rstAsserted s = true ∧ resetDue s = false) ∧
      rstAsserted (resetting [.reset] halted) = true ∧ (resetting [.reset] halted).host = .reset :: [] := by
  decide

/-- `rst` is 1 over an abort with a command behind the reset, over a waiting command with a second reset behind it (`rst`
held), and over a pending response: the states whose outputs are not 0 by themselves. -/
theorem meets_OutputsAroundReset :
    rstAsserted (resetting [.command 0#64] halted) = true ∧ rstAsserted (resetting [.reset] waiting) = true ∧
      rstAsserted (resetting [] answered) = true := by decide

theorem meets_ResponseTransfer :
    (offering [.takeResponse] answered).engineState = .idle ∧ (offering [.takeResponse] answered).rspPending = true ∧
      rstAsserted (offering [.takeResponse] answered) = false ∧
      (offering [.takeResponse] answered).host = .takeResponse :: [] := by decide

theorem answered_inv (hs : List HostAction) : (offering hs answered).Inv := by
  constructor <;> simp [offering, answered, reader, State.reset, busy]

theorem waiting_inv : waiting.Inv ∧ waiting.JobInv := by
  refine ⟨?_, by simp [State.JobInv, waiting, reader, State.reset]⟩
  constructor <;> simp [waiting, reader, State.reset, busy]

theorem halted_inv (hs : List HostAction) : (offering hs halted).Inv := by
  constructor <;> simp [offering, halted, reader, State.reset, busy]

theorem meets_UntakenResponseIsStuck :
    (offering [.command 2#64] answered).Inv ∧ (offering [.command 2#64] answered).rspPending = true ∧
      rstAsserted (offering [.command 2#64] answered) = false ∧
      (offering [.command 2#64] answered).host = .command 2#64 :: [] := ⟨answered_inv _, by decide, by decide, by decide⟩

theorem meets_SilentSourceIsStuck :
    waiting.Inv ∧ waiting.JobInv ∧ busy waiting = true ∧ waiting.source = [] ∧ rstAsserted waiting = false ∧
      resetDue waiting = false :=
  ⟨waiting_inv.1, waiting_inv.2, by decide, by decide, by decide, by decide⟩

theorem meets_BitReadEndOfBudget : (bitRead (reader 0#32 0#4 0xA5#8 [.byte 0x55#8])).1 = .err .endOfBudget := by decide

/-- R-3 and R-4. -/
theorem meets_BitReadSourceExhausted :
    (bitRead (reader 2#32 0#4 0#8 [.short, .byte 1#8])).1 = .err .sourceExhausted ∧
      (bitRead (reader 2#32 0#4 0#8 [.fail, .byte 0xC0#8])).1 = .err .sourceExhausted := by decide

/-- A successful read from the cache at `BITS_LEFT = 1`, one with a pull, and a failed one. -/
theorem meets_BitReadConsumesOneBit :
    (bitRead (reader 0#32 1#4 0x01#8 [])).1 = .ok true ∧ (bitRead (bytes 1#32 [0x80#8])).1 = .ok true ∧
      (bitRead (bytes 1#32 [0x80#8])).2.pullLog = [.byte 0x80#8] ∧ (bitRead (bytes 0#32 [])).1 = .err .endOfBudget := by
  decide

/-- R-4: a failure, then the byte `0xC0`. -/
theorem meets_SourceExhaustedIsRetried :
    (reader 2#32 0#4 0#8 [.fail, .byte 0xC0#8]).initDone = true ∧ (reader 2#32 0#4 0#8 [.fail, .byte 0xC0#8]).bitsLeft = 0#4 ∧
      (reader 2#32 0#4 0#8 [.fail, .byte 0xC0#8]).budget ≠ 0#32 ∧
      pullFrom (reader 2#32 0#4 0#8 [.fail, .byte 0xC0#8]).srcOutstanding (reader 2#32 0#4 0#8 [.fail, .byte 0xC0#8]).source =
        ⟨some .fail, false, answers [.byte 0xC0#8]⟩ ∧
      pullFrom false (answers [.byte 0xC0#8]) = ⟨some (.byte 0xC0#8), false, []⟩ := by decide

theorem meets_PullClassification :
    (reader 2#32 0#4 0#8 [.short]).bitsLeft = 0#4 ∧ (reader 2#32 0#4 0#8 [.short]).budget ≠ 0#32 ∧
      (srcPull (reader 2#32 0#4 0#8 [.short])).1 = some .short ∧ (srcPull (reader 2#32 0#4 0#8 [.fail])).1 = some .fail := by
  decide

/-- A source that is silent, and one that is silent after accepting the request. -/
theorem meets_RequestHeldUntilAccepted :
    ∀ es ∈ [[SrcEvent.quiet], [.ready, .quiet]],
      ({ bytes 1#32 [] with source := es } : State).initDone = true ∧
      ({ bytes 1#32 [] with source := es } : State).bitsLeft = 0#4 ∧
      ({ bytes 1#32 [] with source := es } : State).budget ≠ 0#32 ∧
      ({ bytes 1#32 [] with source := es } : State).srcOutstanding = false := by decide

theorem meets_SpuriousAnswersIgnored :
    (bytes 1#32 []).srcOutstanding = false ∧ (∀ a ∈ [SrcEvent.answer false 1#1 0xFF#8], ∃ e c b, a = .answer e c b) ∧
      (∃ t, exec .readBit { bytes 1#32 [] with source := [.answer false 1#1 0xFF#8] ++ answers [.byte 1#8] } = .next t) ∧
      ∃ u, exec .readBit { bytes 1#32 [] with source := answers [.byte 1#8] } = .next u :=
  ⟨by decide, by simp, ⟨_, rfl⟩, _, rfl⟩

/-- R-8: the cache alone, with no budget. -/
theorem meets_ReadBitDeliversStreamHead :
    (reader 0#32 3#4 0xA5#8 []).initDone = true ∧ (reader 0#32 3#4 0xA5#8 []).stream = true :: [false, true] := by decide

theorem meets_ReadBitFromCache :
    (reader 0#32 1#4 0xA5#8 []).initDone = true ∧ (reader 0#32 1#4 0xA5#8 []).bitsLeft ≠ 0#4 := by decide

theorem meets_ReadBitPullsOneByte :
    (bytes 1#32 [0x80#8]).initDone = true ∧ (bytes 1#32 [0x80#8]).bitsLeft = 0#4 ∧ (bytes 1#32 [0x80#8]).budget ≠ 0#32 ∧
      (bytes 1#32 [0x80#8]).source = .ready :: .answer false 1#1 0x80#8 :: [] := by decide

/-- The stream is empty with each of its three ends. -/
theorem meets_ReadBitFailsAtStreamEnd :
    (reader 0#32 0#4 0xA5#8 []).stream = [] ∧ (reader 0#32 0#4 0xA5#8 []).streamEnd = .outOfBudget ∧
      (reader 2#32 0#4 0#8 [.fail]).stream = [] ∧ (reader 2#32 0#4 0#8 [.fail]).streamEnd = .failed ∧
      (reader 2#32 0#4 0#8 []).stream = [] ∧ (reader 2#32 0#4 0#8 []).streamEnd = .waits ∧
      (reader 2#32 0#4 0#8 []).initDone = true := by decide

/-- The widths 1 and 32 of F and the alphabets 2 and `2^32 - 1` of NS. -/
theorem meets_EndOfBudgetPersists :
    (reader 0#32 0#4 0xA5#8 []).initDone = true ∧ (reader 0#32 0#4 0xA5#8 []).bitsLeft = 0#4 ∧
      (reader 0#32 0#4 0xA5#8 []).budget = 0#32 ∧ 1 ≤ (1#32).toNat ∧ (32#32).toNat ≤ 32 ∧ 2 ≤ (2#32).toNat ∧
      2 ≤ (0xFFFFFFFF#32).toNat := by decide

/-- Fields of 0 and of 32 bits. -/
theorem meets_FieldReadsStreamMsbFirst :
    (bytes 4#32 [0xDE#8, 0xAD#8, 0xBE#8, 0xEF#8]).initDone = true ∧
      (bytes 4#32 [0xDE#8, 0xAD#8, 0xBE#8, 0xEF#8]).stream = [] ++ bitsOf 32 0xDEADBEEF ∧
      (bytes 4#32 [0xDE#8, 0xAD#8, 0xBE#8, 0xEF#8]).stream = bitsOf 32 0xDEADBEEF ++ [] ∧
      (bitsOf 32 0xDEADBEEF).length = (32#32).toNat ∧ ([] : List Bool).length = (0#32).toNat := by decide

/-- One bit, and 32 bits. -/
theorem meets_AllOnesField :
    (bytes 4#32 [0xFF#8, 0xFF#8, 0xFF#8, 0xFF#8]).initDone = true ∧
      (bytes 4#32 [0xFF#8, 0xFF#8, 0xFF#8, 0xFF#8]).stream = List.replicate (32#32).toNat true ++ [] ∧
      (bytes 4#32 [0xFF#8, 0xFF#8, 0xFF#8, 0xFF#8]).stream =
        List.replicate (1#32).toNat true ++ List.replicate 31 true := by decide

theorem meets_ZeroWidthField : (reader 0#32 0#4 0x00#8 []).initDone = true := by decide

theorem meets_WideFieldAborts : (bytes 1#32 []).initDone = true ∧ 32 < (33#32).toNat ∧ 32 < (0xFFFFFFFF#32).toNat := by
  decide

/-- A field with a 1 (F-2) and one without (F-14). -/
theorem meets_BoolFieldIsNonzero :
    (bytes 1#32 [0x80#8]).initDone = true ∧ (2#32).toNat ≤ 32 ∧
      (bytes 1#32 [0x80#8]).stream = [true, false] ++ [false, false, false, false, false, false] ∧
      [true, false].length = (2#32).toNat ∧ (bytes 1#32 [0x00#8]).initDone = true ∧
      (bytes 1#32 [0x00#8]).stream = List.replicate 8 false ++ [] ∧ (List.replicate 8 false).length = (8#32).toNat := by
  decide

/-- F-9, F-10 and a silent source: the field is longer than the stream at each of its three ends. -/
theorem meets_FieldFailsAtStreamEnd :
    (bytes 1#32 [0xFF#8]).initDone = true ∧ (bytes 1#32 [0xFF#8]).stream.length < (12#32).toNat ∧ (12#32).toNat ≤ 32 ∧
      (bytes 1#32 [0xFF#8]).streamEnd = .outOfBudget ∧
      (reader 2#32 0#4 0#8 [.byte 0x12#8, .short]).stream.length < (16#32).toNat ∧
      (reader 2#32 0#4 0#8 [.byte 0x12#8, .short]).streamEnd = .failed ∧
      (bytes 2#32 [0x12#8]).stream.length < (16#32).toNat ∧ (bytes 2#32 [0x12#8]).streamEnd = .waits := by decide

theorem meets_FloorLog2IsHighestBit : (1#32) ≠ 0#32 ∧ (0xFFFFFFFF#32) ≠ 0#32 := by decide

/-- The alphabets 1 and `2^32 - 1`, a long codeword among them, and a run of NS. -/
theorem meets_NsQuantitiesInRange :
    (1#32) ≠ 0#32 ∧ (0xFFFFFFFF#32) ≠ 0#32 ∧ (bitsOf 31 1).length = nsWidth 0xFFFFFFFF#32 - 1 ∧
      nsShort 0xFFFFFFFF#32 ≤ bitsValue (bitsOf 31 1) ∧ (bytes 1#32 []).faultCause ≠ 3#4 ∧
      ∃ t, exec (.ns 1#32) (bytes 1#32 []) = .next t :=
  ⟨by decide, by decide, by decide, by decide, by decide, _, rfl⟩

/-- L1-7: `ns 6` over `00`, the short code, and over `10` then `1`, the long one, at `v = M`. -/
theorem meets_NsLengthAndRange :
    (6#32) ≠ 0#32 ∧ (reader 0#32 2#4 0x00#8 []).initDone = true ∧
      (reader 0#32 2#4 0x00#8 []).stream = [false, false] ++ [] ∧ [false, false].length = floorLog2 6#32 ∧
      bitsValue [false, false] < nsShort 6#32 ∧ (reader 0#32 3#4 0x05#8 []).stream = [true, false] ++ [true] ∧
      [true, false].length = floorLog2 6#32 ∧ nsShort 6#32 = bitsValue [true, false] := by decide

/-- S-4 and `ns 1` (L1-4), whose codeword is empty. -/
theorem meets_NsDecodesItsCode :
    (bytes 4#32 [0#8, 0#8, 0#8, 2#8]).initDone = true ∧ 1 < (0xFFFFFFFF#32).toNat ∧
      (bytes 4#32 [0#8, 0#8, 0#8, 2#8]).stream = nsCode 0xFFFFFFFF#32 1 ++ [] ∧ 0 < (1#32).toNat ∧
      (bytes 0#32 []).stream = nsCode 1#32 0 ++ [] := by decide

/-- The codewords of `ns 5` in the table of section 2.5, on both sides of `M = 3`. -/
theorem meets_NsCodeIsPrefixFree :
    (5#32) ≠ 0#32 ∧ 2 < nsShort 5#32 ∧ nsCode 5#32 2 = [true, false] ∧ ¬ 3 < nsShort 5#32 ∧
      nsCode 5#32 3 = [true, true, false] ∧ 4 < (5#32).toNat ∧ nsCode 5#32 4 <+: nsCode 5#32 4 := by decide

/-- `n = 1` and `n = 2^31` (S-7). -/
theorem meets_NsPowersOfTwo :
    (1#32).toNat = 2 ^ 0 ∧ (bytes 0#32 []).initDone = true ∧ (bytes 0#32 []).stream = [] ++ [] ∧
      (0x80000000#32).toNat = 2 ^ 31 ∧
      (bytes 4#32 [0xAB#8, 0xCD#8, 0xEF#8, 0x13#8]).stream = bitsOf 31 0x55E6F789 ++ [true] ∧
      (bitsOf 31 0x55E6F789).length = 31 := by decide

theorem meets_NsZeroAborts : (bytes 1#32 []).initDone = true := by decide

/-- S-3, and S-2 at the extra bit. -/
theorem meets_NsFailsWithinCodeword :
    (reader 1#32 0#4 0#8 [.fail]).initDone = true ∧ (3#32) ≠ 0#32 ∧
      (reader 1#32 0#4 0#8 [.fail]).stream.length < floorLog2 3#32 ∧ (6#32) ≠ 0#32 ∧
      (reader 0#32 2#4 0x02#8 []).stream.length = floorLog2 6#32 ∧
      nsShort 6#32 ≤ bitsValue (reader 0#32 2#4 0x02#8 []).stream := by decide

/-- D-11, D-12 and D-13. -/
theorem meets_NotInitialisedAborts :
    State.reset.initDone = false ∧
      ∀ i ∈ [Instr.readBit, .fU8 40#32, .ns 0#32], decide (i.fields.op ≠ 1#4) = true := by decide

theorem meets_AbortIsPrecise : ∃ t, exec (.ns 0#32) (bytes 1#32 []) = .next t ∧ t.engineState = .halted :=
  ⟨_, rfl, by decide⟩

/-- A response, an abort, a wait. -/
theorem meets_OneOutcomePerCommand :
    (∃ t, exec .readBit (bytes 1#32 [1#8]) = .next t ∧ t.engineState = .idle) ∧
      (∃ t, exec (.fU8 33#32) (bytes 1#32 []) = .next t ∧ t.engineState = .halted) ∧
      ∃ t, exec (.fU8 8#32) (bytes 1#32 []) = .next t ∧ busy t = true :=
  ⟨⟨_, rfl, by decide⟩, ⟨_, rfl, by decide⟩, _, rfl, by decide⟩

/-- Each of the four causes. -/
theorem meets_FaultSetOnlyByAbort :
    (∃ t, step (offering [.command 0#64] (bytes 1#32 [])) = .next t ∧ t.fault = true ∧ t.faultCause = 1#4) ∧
      (∃ t, step (offering [.command 2#64] State.reset) = .next t ∧ t.fault = true ∧ t.faultCause = 2#4) ∧
      (∃ t, step (offering [.command 0x0000002100000033#64] (bytes 1#32 [])) = .next t ∧ t.fault = true ∧
        t.faultCause = 3#4) ∧
      (∃ t, step (offering [.command 4#64] (bytes 1#32 [])) = .next t ∧ t.fault = true ∧ t.faultCause = 4#4) ∧
      (bytes 1#32 []).fault = false ∧ State.reset.fault = false :=
  ⟨⟨_, rfl, by decide⟩, ⟨_, rfl, by decide⟩, ⟨_, rfl, by decide⟩, ⟨_, rfl, by decide⟩, by decide, by decide⟩

/-- With a command behind the abort (D-15), with a reset next, and with `rst = 1`. -/
theorem meets_FaultLeftOnlyByReset :
    (offering [.command 0x0000000100000001#64] halted).Inv ∧
      (offering [.command 0x0000000100000001#64] halted).fault = true ∧
      rstAsserted (offering [.command 0x0000000100000001#64] halted) = false ∧
      resetDue (offering [.command 0x0000000100000001#64] halted) = false ∧ (offering [.reset] halted).Inv ∧
      (offering [.reset] halted).fault = true ∧ rstAsserted (offering [.reset] halted) = false ∧
      resetDue (offering [.reset] halted) = true ∧ (resetting [] halted).Inv ∧ (resetting [] halted).fault = true ∧
      rstAsserted (resetting [] halted) = true :=
  ⟨halted_inv _, by decide, by decide, by decide, halted_inv _, by decide, by decide, by decide,
    by constructor <;> simp [resetting, halted, reader, State.reset, busy], by decide, by decide⟩

theorem meets_InitDoneWrittenByInitAndReset :
    (∃ t, step (offering [.command 0x0000000100000001#64] State.reset) = .next t ∧
        t.initDone ≠ (offering [.command 0x0000000100000001#64] State.reset).initDone) ∧
      ∃ t, step (resetting [] answered) = .next t ∧ t.initDone ≠ (resetting [] answered).initDone :=
  ⟨⟨_, rfl, by decide⟩, _, rfl, by decide⟩

theorem meets_ReadBitFrame :
    (bytes 1#32 [0x80#8]).initDone = true ∧ ∃ t, exec .readBit (bytes 1#32 [0x80#8]) = .next t := ⟨by decide, _, rfl⟩

theorem meets_FieldFrame :
    (bytes 2#32 [0x80#8, 0x80#8]).initDone = true ∧ (32#32).toNat ≤ 32 ∧
      ∃ t, exec (FieldType.word.command 32#32) (bytes 2#32 [0x80#8, 0x80#8]) = .next t := ⟨by decide, by decide, _, rfl⟩

theorem meets_NsFrame :
    (bytes 1#32 [0xED#8]).initDone = true ∧ (9#32) ≠ 0#32 ∧ ∃ t, exec (.ns 9#32) (bytes 1#32 [0xED#8]) = .next t :=
  ⟨by decide, by decide, _, rfl⟩

/-- One step that accepts `read_bit` and pulls a byte. -/
theorem meets_BudgetCountsDeliveredBytes :
    rstAsserted (offering [.command 2#64] (bytes 1#32 [0x80#8])) = false ∧
    .reset ∉ (offering [.command 2#64] (bytes 1#32 [0x80#8])).host ∧
      (∀ w b, .command w ∈ (offering [.command 2#64] (bytes 1#32 [0x80#8])).host → decode w ≠ .ok (.init b)) ∧
      ∃ t, Sys2Proof.core.run 1 (offering [.command 2#64] (bytes 1#32 [0x80#8])) = .next t ∧
        t.pullLog = [.byte 0x80#8] := by
  refine ⟨by decide, by decide, ?_, _, rfl, by decide⟩
  intro w b h
  obtain rfl : w = 2#64 := by simpa [offering] using h
  simp [show decode 2#64 = .ok .readBit from rfl]

theorem meets_StreamBoundedByBudget : (reader 2#32 3#4 0xA5#8 [.byte 1#8, .short]).streamEnd ≠ .outOfBudget := by decide

/-- A step from a waiting command, and one from a rest state. -/
theorem meets_StepKeepsInvariants :
    waiting.Inv ∧ waiting.JobInv ∧ (∃ t, step waiting = .next t) ∧
      ∃ t, step (offering [.takeResponse] answered) = .next t :=
  ⟨waiting_inv.1, waiting_inv.2, ⟨_, rfl⟩, _, rfl⟩

/-- A command just accepted that waits after the first byte, and one that has waited and waits again, with no reset. -/
theorem meets_WaitingThenGoingOnIsOneRun :
    busy waiting = true ∧ rstAsserted waiting = false ∧ resetDue waiting = false ∧
    .quiet ∉ answers [.byte 0x12#8] ∧
      (∃ t, exec (.fU16 16#32) { bytes 2#32 [] with source := answers [.byte 0x12#8] } = .next t ∧ busy t = true) ∧
      waiting.job.isSome = true ∧ ∃ t, resume { waiting with source := [.ready] } = t ∧ busy t = true :=
  ⟨by decide, by decide, by decide, by decide, ⟨_, rfl, by decide⟩, by decide, _, rfl, by decide⟩

theorem meets_TemporariesWrittenBeforeRead : ∃ t, exec (.ns 6#32) (bytes 1#32 [0xA7#8]) = .next t := ⟨_, rfl⟩

end Sys2Proof.Machine.Tests
end

/-! PROOFS. The statements of 10_state.md. First what a run of a command leaves alone and how its pulls are counted. -/

namespace Sys2Proof.Machine

/-! ## What a command leaves alone -/

theorem sameAround.refl (s : State) : sameAround s s := ⟨rfl, rfl, rfl, rfl, rfl, rfl, rfl, rfl⟩

theorem CommandFrame.sameAround {s t : State} (h : CommandFrame s t) : sameAround s t :=
  ⟨h.initDone, h.fault, h.faultCause, h.cmd, h.host, h.cmdIndex, h.rspLog, h.rst⟩

/-- A response and a wait write nothing of what `sameAround` names, so a command that ends in one does not either. -/
theorem CommandEnd.sameAround {s t : State} (h : CommandEnd CommandFrame s t) : sameAround s t := by
  cases h with
  | ok v u h => exact h.sameAround
  | failed st u _ h => exact h.sameAround
  | waits j u _ h => exact h.sameAround

theorem resume_sameAround (s : State) : sameAround s (resume s) := by
  cases hj : s.job with
  | none => simpa only [resume, hj] using sameAround.refl s
  | some j => exact (resume_end s (by simp [hj])).sameAround

/-! ## The pulls of a command -/

theorem runReadBit_pulls (s : State) : PullsBetween false s (runReadBit s) := by
  have h := (bitRead_pulls s).2.1
  rw [runReadBit]
  split <;> rename_i hb <;> rw [hb] at h <;> exact h

theorem runField_pulls (ty : FieldType) (n : Nat) (s : State) : PullsBetween false s (runField ty n s) := by
  have h := (fieldLoop_pulls n s).2
  rw [runField]
  split <;> rename_i hb <;> rw [hb] at h <;> exact h

theorem runNsExtra_pulls (s : State) : PullsBetween false s (runNsExtra s) := by
  have h := (fieldLoop_pulls 1 s).2
  rw [runNsExtra]
  split <;> rename_i hb <;> rw [hb] at h <;> exact h

/-- The pulls of NS are those of its first field, none of them failing where it has a second one, and then those of the
second. -/
theorem runNsFirst_pulls (n : Nat) (s : State) : PullsBetween false s (runNsFirst n s) := by
  have h := fieldLoop_pulls n s
  rw [runNsFirst]
  split
  · rename_i v t hb
    have h1 : PullsBetween true s (setNsV v t) := h.1 v t hb
    rw [afterNsFirst]
    split
    · exact h1.trans (.of_same rfl rfl rfl rfl)
    · exact h1.trans (runNsExtra_pulls (clearAcc (setNsV v t)))
  · rename_i hb; rw [hb] at h; exact h.2
  · rename_i hb; rw [hb] at h; exact h.2

theorem resume_pulls (s : State) : PullsBetween false s (resume s) := by
  rw [resume]
  split
  · exact .of_same rfl rfl rfl rfl
  · exact runReadBit_pulls s
  · exact runField_pulls _ _ s
  · exact runNsFirst_pulls _ s
  · exact runNsExtra_pulls s

/-- What a command does, seen from outside: it is INIT, or aborts, or ends or waits with its pulls counted. -/
theorem exec_ends (i : Instr) (s t : State) (h : exec i s = .next t) :
    (∃ b, i = .init b ∧ t = respond .ok 0#64 (startReader b s)) ∨ (∃ c, t = raiseAbort c s) ∨
      (CommandEnd CommandFrame s t ∧ PullsBetween false s t) := by
  obtain h | ⟨c, h, -⟩ | ⟨-, ⟨-, rfl⟩ | ⟨ty, n, -, -, rfl⟩ | ⟨n, -, -, rfl⟩⟩ := exec_cases i s t h
  · exact .inl h
  · exact .inr (.inl ⟨c, h⟩)
  · exact .inr (.inr ⟨(runReadBit_end s).mono fun _ => ReadFrame.toCommandFrame, runReadBit_pulls s⟩)
  · exact .inr (.inr ⟨(runField_end ty _ _).mono fun _ hu => (clearAcc_frame s).trans hu.toCommandFrame,
      runField_pulls ty _ (clearAcc s)⟩)
  · exact .inr (.inr ⟨(runNsFirst_end _ _).mono fun _ hu =>
        (setNsParams_frame n s).trans ((clearAcc_frame _).trans hu),
      runNsFirst_pulls _ (clearAcc (setNsParams n s))⟩)

/-- No command moves the host's list or the command-list position, and none writes the command latch or `rst`. -/
theorem exec_host (i : Instr) (s t : State) (h : exec i s = .next t) :
    t.cmd = s.cmd ∧ t.host = s.host ∧ t.cmdIndex = s.cmdIndex ∧ t.rst = s.rst := by
  obtain ⟨b, -, rfl⟩ | ⟨c, rfl⟩ | ⟨he, -⟩ := exec_ends i s t h
  · exact ⟨rfl, rfl, rfl, rfl⟩
  · exact ⟨rfl, rfl, rfl, rfl⟩
  · obtain ⟨-, -, -, hcmd, hhost, hidx, -, hrst⟩ := he.sameAround
    exact ⟨hcmd, hhost, hidx, hrst⟩

/-- Accepting a word moves the host's list and the command-list position by one, and latches the word. -/
theorem accept_host {s t : State} {w : CmdWord}
    (h : (∃ e, decode w = .error e ∧ t = raiseAbort .illegalCommand (latchCommand w s)) ∨
      ∃ i, decode w = .ok i ∧ exec i (latchCommand w s) = .next t) :
    t.cmd = w ∧ t.host = s.host.tail ∧ t.cmdIndex = s.cmdIndex + 1 ∧ t.rst = s.rst := by
  obtain ⟨e, -, rfl⟩ | ⟨i, -, h⟩ := h
  · exact ⟨rfl, rfl, rfl, rfl⟩
  · exact exec_host i _ t h

theorem takeResponse_cases (s : State) :
    takeResponse s = { s with host := s.host.tail } ∨
      takeResponse s =
        { s with rspPending := false, rspLog := s.rspLog ++ [⟨s.rspStatus, s.rspValue⟩], host := s.host.tail } := by
  cases h : s.rspPending
  · exact .inl (by simp [takeResponse, h])
  · exact .inr (by simp [takeResponse, h])

/-! ## The budget counts the bytes delivered -/

/-- The budget at `t` and the bytes pulled since `s` make up the budget at `s` (10_state R26). -/
def BudgetPaid (s t : State) : Prop :=
  ∃ rs, t.pullLog = s.pullLog ++ rs ∧ t.budget.toNat + (pulledBytes rs).length = s.budget.toNat

theorem PullsBetween.budgetPaid {d : Bool} {s t : State} (h : PullsBetween d s t) : BudgetPaid s t := by
  obtain ⟨rs, hlog, hbudget, -⟩ := h
  exact ⟨rs, hlog, hbudget⟩

theorem BudgetPaid.of_same {s t : State} (hl : t.pullLog = s.pullLog) (hb : t.budget = s.budget) : BudgetPaid s t :=
  ⟨[], by simp [hl], by simp [pulledBytes, hb]⟩

theorem BudgetPaid.trans {s t u : State} (h : BudgetPaid s t) (g : BudgetPaid t u) : BudgetPaid s u := by
  obtain ⟨rs, h1, h2⟩ := h
  obtain ⟨qs, g1, g2⟩ := g
  exact ⟨rs ++ qs, by rw [g1, h1, List.append_assoc], by rw [pulledBytes_append, List.length_append]; omega⟩

/-- `rst` is 0 and the host will send neither a reset nor an INIT. -/
structure Uninterrupted (s : State) : Prop where
  rst : s.rst = false
  noReset : .reset ∉ s.host
  noInit : ∀ w b, .command w ∈ s.host → decode w ≠ .ok (.init b)

theorem Uninterrupted.of_suffix {s t : State} (h : Uninterrupted s) (hr : t.rst = s.rst) (hh : t.host <:+ s.host) :
    Uninterrupted t :=
  ⟨hr.trans h.rst, fun hm => h.noReset (hh.mem hm), fun w b hm => h.noInit w b (hh.mem hm)⟩

/-- One step of an uninterrupted run takes one from the budget for each byte it pulls, and the run stays uninterrupted. -/
theorem step_uninterrupted {s t : State} (hs : Uninterrupted s) (h : step s = .next t) :
    Uninterrupted t ∧ BudgetPaid s t := by
  obtain ⟨hr, -⟩ | ⟨-, ⟨hs', hh⟩, -⟩ | ⟨-, -, -, rfl⟩ | ⟨-, -, -, rfl⟩ | ⟨-, -, rfl⟩ | ⟨w, hs', -, hh, hacc⟩ :=
    step_cases s t h
  · exact absurd hs.rst (by simpa [rstAsserted] using hr)
  · exact absurd (by simp [hh]) hs.noReset
  · obtain ⟨-, -, -, -, hhost, -, -, hrst⟩ := resume_sameAround s
    exact ⟨hs.of_suffix hrst (by rw [hhost]), (resume_pulls s).budgetPaid⟩
  · obtain h | h := takeResponse_cases s <;> rw [h] <;>
      exact ⟨hs.of_suffix rfl (List.tail_suffix _), .of_same rfl rfl⟩
  · exact ⟨hs, .of_same rfl rfl⟩
  · obtain ⟨-, hhost, -, hrst⟩ := accept_host hacc
    refine ⟨hs.of_suffix hrst (by rw [hhost]; exact List.tail_suffix _), ?_⟩
    obtain ⟨e, -, rfl⟩ | ⟨i, hd, hx⟩ := hacc
    · exact .of_same rfl rfl
    obtain ⟨b, rfl, -⟩ | ⟨c, rfl⟩ | ⟨-, hp⟩ := exec_ends i _ t hx
    · exact absurd hd (hs.noInit w b (by simp [hh]))
    · exact .of_same rfl rfl
    · exact hp.budgetPaid

/-- A run of more steps that answers a next state: its first step answers one, and the rest of the run goes on from there. -/
theorem run_succ_next {M : Host.Core} {k : Nat} {s t : M.State} (h : M.run (k + 1) s = .next t) :
    ∃ u, M.step s = .next u ∧ M.run k u = .next t := by
  rw [Host.Core.run] at h
  split at h
  · exact ⟨_, ‹_›, h⟩
  · cases h
  · cases h

theorem run_budgetPaid (k : Nat) {s t : State} (hs : Uninterrupted s) (h : Sys2Proof.core.run k s = .next t) :
    BudgetPaid s t := by
  induction k generalizing s with
  | zero => cases h; exact .of_same rfl rfl
  | succ k ih =>
    obtain ⟨u, hu, h⟩ := run_succ_next h
    obtain ⟨hu', hp⟩ := step_uninterrupted hs hu
    exact hp.trans (ih hu' h)

/-- Settles O54: every step of an uninterrupted run keeps the account, by induction on the number of steps. -/
theorem budgetCountsDeliveredBytes : Obligations.BudgetCountsDeliveredBytes :=
  fun k _ _ hr hreset hinit h => run_budgetPaid k ⟨hr, hreset, hinit⟩ h

/-! ## Acceptance, and who writes `INIT_DONE` -/

/-- Settles O8: of all steps only the acceptance of a word moves the command-list position. -/
theorem commandsAcceptedOnlyWhenReady : Obligations.CommandsAcceptedOnlyWhenReady := by
  refine fun s => ⟨cmdReady_iff s, fun t h hne => ?_⟩
  obtain ⟨-, rfl⟩ | ⟨-, -, rfl⟩ | ⟨-, -, -, rfl⟩ | ⟨-, -, -, rfl⟩ | ⟨-, -, rfl⟩ | ⟨w, hs, hready, hh, hacc⟩ :=
    step_cases s t h
  · exact absurd rfl hne
  · exact absurd rfl hne
  · obtain ⟨-, -, -, -, -, hidx, -, -⟩ := resume_sameAround s
    exact absurd hidx hne
  · obtain h | h := takeResponse_cases s <;> rw [h] at hne <;> exact absurd rfl hne
  · exact absurd rfl hne
  · obtain ⟨hidle, hpending, hfault, hrst⟩ := (cmdReady_iff s).1 hready
    obtain ⟨hcmd, hhost, hidx, -⟩ := accept_host hacc
    exact ⟨hidle, hpending, hfault, hrst, w, hs, hh, hidx, hcmd, by rw [hhost, hh, List.tail_cons]⟩

/-- Settles O50: a reset edge clears it, INIT sets it, and every other step leaves it alone. -/
theorem initDoneWrittenByInitAndReset : Obligations.InitDoneWrittenByInitAndReset := by
  intro s t h hne
  obtain ⟨hr, rfl⟩ | ⟨-, -, rfl⟩ | ⟨-, -, -, rfl⟩ | ⟨-, -, -, rfl⟩ | ⟨-, -, rfl⟩ | ⟨w, hs, hready, hh, hacc⟩ :=
    step_cases s t h
  · exact .inl ⟨hr, rfl⟩
  · exact absurd rfl hne
  · obtain ⟨hinit, -⟩ := resume_sameAround s
    exact absurd hinit hne
  · obtain h | h := takeResponse_cases s <;> rw [h] at hne <;> exact absurd rfl hne
  · exact absurd rfl hne
  · obtain ⟨e, -, rfl⟩ | ⟨i, hd, hx⟩ := hacc
    · exact absurd rfl hne
    obtain ⟨b, rfl, rfl⟩ | ⟨c, rfl⟩ | ⟨he, -⟩ := exec_ends i _ t hx
    · exact .inr ⟨rfl, hready, w, hs, b, hh, hd⟩
    · exact absurd rfl hne
    · obtain ⟨hinit, -⟩ := he.sameAround
      exact absurd hinit hne

end Sys2Proof.Machine

/-! PROOFS. The invariants of the engine: what a FieldRead keeps, the ranges of the quantities of NS, and every step. -/

namespace Sys2Proof.Machine

/-! ## What BitRead and FieldRead keep -/

/-- A command may ask for bits: `BITS_LEFT` is in range, and a pull is outstanding only where the next bit needs it. -/
structure Readable (s : State) : Prop where
  bitsLeft_le : s.bitsLeft.toNat ≤ 7
  outstanding_pulls : s.srcOutstanding = true → s.bitsLeft = 0#4 ∧ s.budget ≠ 0#32

/-- Between two bits: `BITS_LEFT` is in range and no pull is outstanding. -/
structure Settled (s : State) : Prop where
  bitsLeft_le : s.bitsLeft.toNat ≤ 7
  not_outstanding : s.srcOutstanding = false

/-- At a wait: the next bit needs a pull, and the pull is outstanding exactly in WAIT_SRC. -/
structure AwaitsPull (s : State) : Prop where
  bitsLeft_eq : s.bitsLeft = 0#4
  budget_ne : s.budget ≠ 0#32
  busy : busy s = true
  outstanding_iff : s.srcOutstanding = true ↔ s.engineState = .waitSrc

theorem Settled.readable {s : State} (h : Settled s) : Readable s :=
  ⟨h.bitsLeft_le, fun ho => by simp [h.not_outstanding] at ho⟩

theorem AwaitsPull.readable {s : State} (h : AwaitsPull s) : Readable s :=
  ⟨by simp [h.bitsLeft_eq], fun _ => ⟨h.bitsLeft_eq, h.budget_ne⟩⟩

theorem pullWaiting_awaitsPull {s : State} (h0 : s.bitsLeft = 0#4) (hb : s.budget ≠ 0#32) (o : Bool) (es : List SrcEvent) :
    AwaitsPull (pullWaiting o es s) :=
  ⟨h0, hb, by cases o <;> rfl, by cases o <;> simp⟩

/-- BitRead ends between two bits or at a wait, and leaves the accumulator alone (10_state R24, 30_encoding R82). -/
theorem bitRead_ends {s : State} (hr : Readable s) :
    (∃ b t, bitRead s = (.ok b, t) ∧ ReadFrame s t ∧ t.acc = s.acc ∧ Settled t) ∨
    (∃ st t, st ≠ .ok ∧ bitRead s = (.err st, t) ∧ ReadFrame s t ∧ Settled t) ∨
    (∃ t, bitRead s = (.waiting, t) ∧ ReadFrame s t ∧ t.acc = s.acc ∧ AwaitsPull t) := by
  obtain ⟨hf, ha⟩ := bitRead_frame s
  obtain ⟨h0, h⟩ | ⟨h0, hb, h⟩ | ⟨h0, hb, b, rest, -, h⟩ | ⟨h0, hb, r, rest, -, -, h⟩ | ⟨h0, hb, o, rest, -, -, h⟩ :=
    bitRead_cases s <;> rw [h] at hf ha
  · have ho : s.srcOutstanding = false := by
      by_contra ho
      exact h0 (hr.outstanding_pulls (by simpa using ho)).1
    have hle := hr.bitsLeft_le
    exact .inl ⟨_, _, h, hf, ha, by rw [dropBit_bitsLeft]; bv_omega, ho⟩
  · have ho : s.srcOutstanding = false := by
      by_contra ho
      exact (hr.outstanding_pulls (by simpa using ho)).2 hb
    exact .inr (.inl ⟨_, _, by decide, h, hf, hr.bitsLeft_le, ho⟩)
  · exact .inl ⟨_, _, h, hf, ha, by simp, rfl⟩
  · exact .inr (.inl ⟨_, _, by decide, h, hf, hr.bitsLeft_le, rfl⟩)
  · exact .inr (.inr ⟨_, h, hf, ha, pullWaiting_awaitsPull h0 hb o rest⟩)

/-- FieldRead ends between two bits or at a wait, and its accumulator, `m` bits of it full at the start, holds at most the bits
read (42_field_read R128). -/
theorem fieldLoop_ends (n : Nat) {s : State} (hr : Readable s) (h0 : n = 0 → s.srcOutstanding = false) {m : Nat}
    (ha : s.acc.toNat < 2 ^ m) (hm : m + n ≤ 32) :
    (∃ t, fieldLoop n s = (.ok t.acc, t) ∧ ReadFrame s t ∧ Settled t ∧ t.acc.toNat < 2 ^ (m + n)) ∨
    (∃ st t, st ≠ .ok ∧ fieldLoop n s = (.err st, t) ∧ ReadFrame s t ∧ Settled t) ∨
    (∃ k t, 1 ≤ k ∧ k ≤ n ∧ fieldLoop n s = (.waiting k, t) ∧ ReadFrame s t ∧ AwaitsPull t ∧
      t.acc.toNat < 2 ^ (m + n - k)) := by
  induction n generalizing s m with
  | zero => exact .inl ⟨s, rfl, .refl s, ⟨hr.bitsLeft_le, h0 rfl⟩, by simpa using ha⟩
  | succ n ih =>
    obtain ⟨b, u, h, hf, hacc, hu⟩ | ⟨st, u, hst, h, hf, hu⟩ | ⟨u, h, hf, hacc, hu⟩ := bitRead_ends hr
    · have hf' : ReadFrame s (shiftIn b u) := hf.trans (by constructor <;> rfl)
      have hu' : Settled (shiftIn b u) := ⟨hu.bitsLeft_le, hu.not_outstanding⟩
      have hroom : u.acc.toNat < 2 ^ 31 := by
        rw [hacc]; exact lt_of_lt_of_le ha (Nat.pow_le_pow_right (by omega) (by omega))
      have ha' : (shiftIn b u).acc.toNat < 2 ^ (m + 1) := by
        have hb := b.toNat_le
        rw [shiftIn_acc_toNat b u hroom, hacc, pow_succ]; omega
      rw [fieldLoop, h, show m + (n + 1) = m + 1 + n by omega]
      obtain ⟨t, ht, hft, hst, hat⟩ | ⟨st, t, hst, ht, hft, hs⟩ | ⟨k, t, hk1, hkn, ht, hft, hw, hat⟩ :=
        ih hu'.readable (fun _ => hu'.not_outstanding) ha' (by omega)
      · exact .inl ⟨t, ht, hf'.trans hft, hst, hat⟩
      · exact .inr (.inl ⟨st, t, hst, ht, hf'.trans hft, hs⟩)
      · exact .inr (.inr ⟨k, t, hk1, by omega, ht, hf'.trans hft, hw, hat⟩)
    · exact .inr (.inl ⟨st, u, hst, by rw [fieldLoop, h], hf, hu⟩)
    · exact .inr (.inr ⟨n + 1, u, by omega, le_rfl, by rw [fieldLoop, h], hf, hu, by rw [hacc]; simpa using ha⟩)

/-! ## The quantities of NS -/

/-- The highest set bit at or below bit `k` of a number with no bit above `k` is that of its leading power of two. -/
theorem highestBitBelow_bounds (x : Word32) (hx : x ≠ 0#32) (k : Nat) (hk : x.toNat < 2 ^ (k + 1)) :
    highestBitBelow x k ≤ k ∧ 2 ^ highestBitBelow x k ≤ x.toNat ∧ x.toNat < 2 ^ (highestBitBelow x k + 1) := by
  induction k with
  | zero => exact ⟨le_rfl, by simp [highestBitBelow]; bv_omega, hk⟩
  | succ k ih =>
    rw [highestBitBelow]
    split
    · rename_i hbit
      exact ⟨le_rfl, Nat.ge_two_pow_of_testBit hbit, hk⟩
    · rename_i hbit
      have hlt : x.toNat < 2 ^ (k + 1) := by
        by_contra hge
        exact hbit (Nat.testBit_of_two_pow_le_and_two_pow_add_one_gt (by omega) hk)
      obtain ⟨h1, h2, h3⟩ := ih hlt
      exact ⟨by omega, h2, h3⟩

/-- `floor_log2` of a nonzero word (43_ns_decode R140). -/
theorem floorLog2_bounds (n : Word32) (hn : n ≠ 0#32) :
    floorLog2 n ≤ 31 ∧ 2 ^ floorLog2 n ≤ n.toNat ∧ n.toNat < 2 ^ (floorLog2 n + 1) :=
  highestBitBelow_bounds n hn 31 n.isLt

/-- `W` is 1 to 32 and `M` is 1 to `2^(W-1)` (43_ns_decode R142). -/
theorem nsWidth_nsShort_bounds (n : Word32) (hn : n ≠ 0#32) :
    1 ≤ nsWidth n ∧ nsWidth n ≤ 32 ∧ 1 ≤ nsShort n ∧ nsShort n ≤ 2 ^ (nsWidth n - 1) := by
  obtain ⟨h1, h2, h3⟩ := floorLog2_bounds n hn
  rw [nsShort, nsWidth, Nat.add_sub_cancel]
  rw [pow_succ] at h3 ⊢
  exact ⟨by omega, by omega, by omega, by omega⟩

/-- The registers `W` and `M` hold these quantities exactly. -/
theorem setNsParams_toNat (n : Word32) (hn : n ≠ 0#32) (s : State) :
    (setNsParams n s).nsW.toNat = nsWidth n ∧ (setNsParams n s).nsM.toNat = nsShort n := by
  obtain ⟨-, hw, -, hm⟩ := nsWidth_nsShort_bounds n hn
  have hp : 2 ^ (nsWidth n - 1) ≤ 2 ^ 31 := Nat.pow_le_pow_right (by omega) (by omega)
  rw [setNsParams_nsW, setNsParams_nsM, BitVec.toNat_ofNat, BitVec.toNat_ofNat]
  exact ⟨Nat.mod_eq_of_lt (by omega), Nat.mod_eq_of_lt (by omega)⟩

/-! ## The ends of a command -/

/-- The engine as it is while a command of an initialised reader runs: no abort, no response pending. -/
structure Running (s : State) : Prop where
  initDone : s.initDone = true
  fault : s.fault = false
  faultCause : s.faultCause = 0#4
  rspPending : s.rspPending = false
  rspStatus_ne : s.rspStatus ≠ 3#2
  failed_value : s.rspStatus ≠ 0#2 → s.rspValue = 0#64

theorem Running.of_frame {s t : State} (h : Running s) (f : CommandFrame s t) : Running t where
  initDone := f.initDone.trans h.initDone
  fault := f.fault.trans h.fault
  faultCause := f.faultCause.trans h.faultCause
  rspPending := f.rspPending.trans h.rspPending
  rspStatus_ne := f.rspStatus ▸ h.rspStatus_ne
  failed_value := f.rspStatus ▸ f.rspValue ▸ h.failed_value

theorem respond_inv {s : State} (hr : Running s) (hs : Settled s) {st : Status} {v : Value} (hv : st ≠ .ok → v = 0#64) :
    (respond st v s).Inv where
  bitsLeft_le := hs.bitsLeft_le
  faultCause_le := by simp [hr.faultCause]
  rspStatus_ne := by cases st <;> simp [Status.code]
  fault_iff := by simp [hr.fault]
  cause_iff := by simp [hr.fault, hr.faultCause]
  pending_idle := by simp
  outstanding_iff := by simp [hs.not_outstanding]
  job_iff := by simp [busy]
  busy_pulls := by simp [busy]
  uninit := by simp [hr.initDone]
  failed_value := by cases st <;> simp_all [Status.code]

theorem respond_keeps {s : State} (hr : Running s) (hs : Settled s) {st : Status} {v : Value} (hv : st ≠ .ok → v = 0#64) :
    (respond st v s).Inv ∧ (respond st v s).JobInv :=
  ⟨respond_inv hr hs hv, trivial⟩

theorem suspend_inv {s : State} (hr : Running s) (hw : AwaitsPull s) (j : Job) : (suspend j s).Inv where
  bitsLeft_le := by simp [hw.bitsLeft_eq]
  faultCause_le := by simp [hr.faultCause]
  rspStatus_ne := hr.rspStatus_ne
  fault_iff := by
    have hb := hw.busy
    cases he : s.engineState <;> simp_all [busy, hr.fault]
  cause_iff := by simp [hr.fault, hr.faultCause]
  pending_idle := by simp [hr.rspPending]
  outstanding_iff := hw.outstanding_iff
  job_iff := iff_of_true rfl hw.busy
  busy_pulls := fun _ => ⟨hr.initDone, hw.bitsLeft_eq, hw.budget_ne⟩
  uninit := by simp [hr.initDone]
  failed_value := hr.failed_value

/-! ## A command keeps the invariants -/

theorem runReadBit_keeps {s : State} (hr : Running s) (hs : Readable s) : (runReadBit s).Inv ∧ (runReadBit s).JobInv := by
  obtain ⟨b, t, h, hf, -, ht⟩ | ⟨st, t, hst, h, hf, ht⟩ | ⟨t, h, hf, -, ht⟩ := bitRead_ends hs <;> rw [runReadBit, h]
  · exact respond_keeps (hr.of_frame hf.toCommandFrame) ht (by simp)
  · exact respond_keeps (hr.of_frame hf.toCommandFrame) ht (fun _ => rfl)
  · exact ⟨suspend_inv (hr.of_frame hf.toCommandFrame) ht _, trivial⟩

theorem runField_keeps (ty : FieldType) {left : Nat} {s : State} (hr : Running s) (hs : Readable s)
    (h0 : left = 0 → s.srcOutstanding = false) (hl : left ≤ 32) (ha : s.acc.toNat < 2 ^ (32 - left)) :
    (runField ty left s).Inv ∧ (runField ty left s).JobInv := by
  obtain ⟨t, h, hf, ht, -⟩ | ⟨st, t, hst, h, hf, ht⟩ | ⟨k, t, hk1, hk, h, hf, ht, hat⟩ :=
    fieldLoop_ends left hs h0 ha (by omega) <;> rw [runField, h]
  · exact respond_keeps (hr.of_frame hf.toCommandFrame) ht (by simp)
  · exact respond_keeps (hr.of_frame hf.toCommandFrame) ht (fun _ => rfl)
  · exact ⟨suspend_inv (hr.of_frame hf.toCommandFrame) ht _, hk1, by omega, by rwa [Nat.sub_add_cancel hl] at hat⟩

/-- The temporaries of NS before its second field (43_ns_decode R142). -/
structure NsExtraRanges (s : State) : Prop where
  width_pos : 1 ≤ s.nsW.toNat
  width_le : s.nsW.toNat ≤ 32
  acc_eq : s.acc = 0#32
  short_pos : 1 ≤ s.nsM.toNat
  short_le : s.nsM.toNat ≤ s.nsV.toNat
  value_lt : s.nsV.toNat < 2 ^ (s.nsW.toNat - 1)

theorem runNsExtra_keeps {s : State} (hr : Running s) (hs : Readable s) (hn : NsExtraRanges s) :
    (runNsExtra s).Inv ∧ (runNsExtra s).JobInv := by
  obtain ⟨t, h, hf, ht, -⟩ | ⟨st, t, hst, h, hf, ht⟩ | ⟨k, t, hk1, hk, h, hf, ht, hat⟩ :=
    fieldLoop_ends 1 hs (by simp) (m := 0) (by simp [hn.acc_eq]) (by omega) <;> rw [runNsExtra, h]
  · exact respond_keeps (hr.of_frame hf.toCommandFrame) ht (by simp)
  · exact respond_keeps (hr.of_frame hf.toCommandFrame) ht (fun _ => rfl)
  · have hacc : t.acc = 0#32 := by
      obtain rfl : k = 1 := by omega
      exact BitVec.eq_of_toNat_eq (by simpa using hat)
    obtain ⟨hw1, hw2, -, hm1, hm2, hv⟩ := hn
    rw [← hf.nsW, ← hf.nsM, ← hf.nsV] at *
    exact ⟨suspend_inv (hr.of_frame hf.toCommandFrame) ht _, hw1, hw2, hacc, hm1, hm2, hv⟩

/-- The temporaries of NS in its first field, `left` bits of it still to be read (43_ns_decode R142). -/
structure NsFirstRanges (left : Nat) (s : State) : Prop where
  left_lt : left + 1 ≤ s.nsW.toNat
  width_le : s.nsW.toNat ≤ 32
  acc_lt : s.acc.toNat < 2 ^ (s.nsW.toNat - 1 - left)
  short_pos : 1 ≤ s.nsM.toNat
  short_le : s.nsM.toNat ≤ 2 ^ (s.nsW.toNat - 1)

/-- The end of the first field: a short code answers, a long one goes on to its extra bit. -/
theorem afterNsFirst_keeps {s : State} (hr : Running s) (hs : Settled s) (hw1 : 1 ≤ s.nsW.toNat) (hw2 : s.nsW.toNat ≤ 32)
    (hm : 1 ≤ s.nsM.toNat) (hv : s.nsV.toNat < 2 ^ (s.nsW.toNat - 1)) :
    (afterNsFirst s).Inv ∧ (afterNsFirst s).JobInv := by
  rw [afterNsFirst]
  split
  · exact respond_keeps hr hs (by simp)
  · rename_i hlong
    have hs' : Settled (clearAcc s) := ⟨hs.bitsLeft_le, hs.not_outstanding⟩
    exact runNsExtra_keeps (hr.of_frame (clearAcc_frame s)) hs'.readable ⟨hw1, hw2, rfl, hm, not_lt.1 hlong, hv⟩

theorem runNsFirst_keeps {left : Nat} {s : State} (hr : Running s) (hs : Readable s)
    (h0 : left = 0 → s.srcOutstanding = false) (hn : NsFirstRanges left s) :
    (runNsFirst left s).Inv ∧ (runNsFirst left s).JobInv := by
  obtain ⟨hleft, hw, ha, hm1, hm2⟩ := hn
  obtain ⟨t, h, hf, ht, hat⟩ | ⟨st, t, hst, h, hf, ht⟩ | ⟨k, t, hk1, hk, h, hf, ht, hat⟩ :=
    fieldLoop_ends left hs h0 ha (by omega) <;>
    rw [runNsFirst, h] <;> have hrt := hr.of_frame hf.toCommandFrame <;> rw [← hf.nsW] at * <;> rw [← hf.nsM] at *
  · rw [show t.nsW.toNat - 1 - left + left = t.nsW.toNat - 1 by omega] at hat
    exact afterNsFirst_keeps (hrt.of_frame (setNsV_frame _ _)) ⟨ht.bitsLeft_le, ht.not_outstanding⟩
      (Nat.le_of_add_left_le hleft) hw hm1 hat
  · exact respond_keeps hrt ht (fun _ => rfl)
  · rw [show t.nsW.toNat - 1 - left + left - k = t.nsW.toNat - 1 - k by omega] at hat
    exact ⟨suspend_inv hrt ht _, hk1, le_trans (Nat.add_le_add_right hk 1) hleft, hw, hat, hm1, hm2⟩

/-! ## A step keeps the invariants -/

/-- A waiting command goes on from a wait. -/
theorem State.Inv.running_of_busy {s : State} (hi : s.Inv) (hb : busy s = true) : Running s ∧ AwaitsPull s := by
  obtain ⟨hinit, hleft, hbudget⟩ := hi.busy_pulls hb
  have hidle : s.engineState ≠ .idle := fun he => by simp [busy, he] at hb
  have hhalted : s.engineState ≠ .halted := fun he => by simp [busy, he] at hb
  have hfault : s.fault = false := by simpa using mt hi.fault_iff.1 hhalted
  exact ⟨⟨hinit, hfault, hi.cause_iff.2 hfault, by simpa using mt hi.pending_idle hidle, hi.rspStatus_ne, hi.failed_value⟩,
    hleft, hbudget, hb, hi.outstanding_iff⟩

/-- A ready engine has nothing in progress. -/
theorem State.Inv.at_rest {s : State} (hi : s.Inv) (hc : cmdReady s = true) :
    s.rspPending = false ∧ s.fault = false ∧ s.faultCause = 0#4 ∧ s.job = none ∧ Settled s := by
  obtain ⟨hidle, hpending, hfault, -⟩ := (cmdReady_iff s).1 hc
  have hjob : s.job = none := by simpa [busy, hidle] using hi.job_iff
  have hout : s.srcOutstanding = false := by simpa [hidle] using hi.outstanding_iff
  exact ⟨hpending, hfault, hi.cause_iff.2 hfault, hjob, hi.bitsLeft_le, hout⟩

theorem AbortCause.code_le (c : AbortCause) : c.code.toNat ≤ 4 ∧ c.code ≠ 0#4 := by cases c <;> decide

/-- An abort of a word just accepted (60_exceptions R205). -/
theorem abort_keeps {s : State} (hi : s.Inv) (hc : cmdReady s = true) (c : AbortCause) (w : CmdWord) :
    (raiseAbort c (latchCommand w s)).Inv ∧ (raiseAbort c (latchCommand w s)).JobInv := by
  obtain ⟨hpending, -, -, hjob, hs⟩ := hi.at_rest hc
  refine ⟨?_, by simp [State.JobInv, hjob]⟩
  constructor
  case bitsLeft_le => exact hi.bitsLeft_le
  case faultCause_le => exact c.code_le.1
  case rspStatus_ne => exact hi.rspStatus_ne
  case fault_iff => simp
  case cause_iff => simp [c.code_le.2]
  case pending_idle => simp [hpending]
  case outstanding_iff => simp [hs.not_outstanding]
  case job_iff => simp [busy, hjob]
  case busy_pulls => simp [busy]
  case uninit => exact hi.uninit
  case failed_value => exact hi.failed_value

theorem exec_keeps {s t : State} (hi : s.Inv) (hc : cmdReady s = true) {i : Instr} {w : CmdWord}
    (h : exec i (latchCommand w s) = .next t) : t.Inv ∧ t.JobInv := by
  obtain ⟨hpending, hfault, hcause, -, hs⟩ := hi.at_rest hc
  obtain ⟨b, -, rfl⟩ | ⟨c, rfl, -⟩ | ⟨hinit, hrun⟩ := exec_cases i _ t h
  · have hr : Running (startReader b (latchCommand w s)) :=
      ⟨rfl, hfault, hcause, hpending, hi.rspStatus_ne, hi.failed_value⟩
    exact respond_keeps hr ⟨by simp, hs.not_outstanding⟩ (by simp)
  · exact abort_keeps hi hc c w
  have hr : Running (latchCommand w s) := ⟨hinit, hfault, hcause, hpending, hi.rspStatus_ne, hi.failed_value⟩
  have hs' : Settled (latchCommand w s) := ⟨hs.bitsLeft_le, hs.not_outstanding⟩
  obtain ⟨-, rfl⟩ | ⟨ty, n, -, hn, rfl⟩ | ⟨n, -, hn, rfl⟩ := hrun
  · exact runReadBit_keeps hr hs'.readable
  · exact runField_keeps ty (hr.of_frame (clearAcc_frame _)) (Settled.readable ⟨hs.bitsLeft_le, hs.not_outstanding⟩)
      (fun _ => hs.not_outstanding) hn (by simp)
  · obtain ⟨hw1, hw2, hm1, hm2⟩ := nsWidth_nsShort_bounds n hn
    obtain ⟨hw, hm⟩ := setNsParams_toNat n hn (latchCommand w s)
    refine runNsFirst_keeps (hr.of_frame ((setNsParams_frame n _).trans (clearAcc_frame _)))
      (Settled.readable ⟨hs.bitsLeft_le, hs.not_outstanding⟩) (fun _ => hs.not_outstanding) ?_
    rw [← hw] at hw1 hw2 hm2 ⊢
    rw [← hm] at hm1 hm2
    exact ⟨by rw [Nat.sub_add_cancel hw1]; exact le_rfl, hw2, by simp, hm1, hm2⟩

theorem resume_keeps {s : State} (hi : s.Inv) (hj : s.JobInv) (hb : busy s = true) :
    (resume s).Inv ∧ (resume s).JobInv := by
  obtain ⟨hr, hw⟩ := hi.running_of_busy hb
  have hout {left : Nat} (hl : 1 ≤ left) : left = 0 → s.srcOutstanding = false := by omega
  cases hjob : s.job with
  | none => simpa [hjob, hb] using hi.job_iff
  | some j =>
    simp only [State.JobInv, hjob] at hj
    simp only [resume, hjob]
    cases j with
    | readBit => exact runReadBit_keeps hr hw.readable
    | field ty left =>
      obtain ⟨h1, hl, ha⟩ := hj
      exact runField_keeps ty hr hw.readable (hout h1) hl ha
    | nsFirst left =>
      obtain ⟨h1, hlt, hw32, ha, hm1, hm2⟩ := hj
      exact runNsFirst_keeps hr hw.readable (hout h1) ⟨hlt, hw32, ha, hm1, hm2⟩
    | nsExtra =>
      obtain ⟨hw1, hw32, ha, hm1, hm2, hv⟩ := hj
      exact runNsExtra_keeps hr hw.readable ⟨hw1, hw32, ha, hm1, hm2, hv⟩

/-- Settles O56: reset leaves an idle reader that is not initialised. -/
theorem resetMeetsInvariants : Obligations.ResetMeetsInvariants := by
  refine ⟨?_, trivial⟩
  constructor <;> decide

/-- The invariants do not speak of what lies around the engine, so what changes only that keeps them. -/
theorem State.Inv.around {s : State} (hi : s.Inv) (r : Bool) (h : List HostAction) (es : List SrcEvent) (i : Nat)
    (rsps : List Response) (ps : List PullResult) :
    State.Inv { s with rst := r, host := h, source := es, cmdIndex := i, rspLog := rsps, pullLog := ps } := by
  cases hi; constructor <;> assumption

theorem takeResponse_keeps {s : State} (hi : s.Inv) (hj : s.JobInv) :
    (takeResponse s).Inv ∧ (takeResponse s).JobInv := by
  obtain h | h := takeResponse_cases s <;> rw [h] <;> refine ⟨?_, hj⟩
  · exact hi.around s.rst _ s.source s.cmdIndex s.rspLog s.pullLog
  · exact ⟨hi.bitsLeft_le, hi.faultCause_le, hi.rspStatus_ne, hi.fault_iff, hi.cause_iff, by simp, hi.outstanding_iff,
      hi.job_iff, hi.busy_pulls, hi.uninit, hi.failed_value⟩

/-- Settles O57: a step is a reset, the rise of `rst`, a waiting command that goes on, a response taken, nothing, or the
acceptance of a word, and each keeps the invariants. -/
theorem stepKeepsInvariants : Obligations.StepKeepsInvariants := by
  intro s t hi hj h
  obtain ⟨-, rfl⟩ | ⟨-, -, rfl⟩ | ⟨-, -, hb, rfl⟩ | ⟨-, -, -, rfl⟩ | ⟨-, -, rfl⟩ | ⟨w, hs, hready, hh, hacc⟩ :=
    step_cases s t h
  · exact ⟨resetMeetsInvariants.1.around _ _ _ _ _ _, trivial⟩
  · exact ⟨hi.around true s.host.tail s.source s.cmdIndex s.rspLog s.pullLog, hj⟩
  · exact resume_keeps hi hj hb
  · exact takeResponse_keeps hi hj
  · exact ⟨hi, hj⟩
  · obtain ⟨e, -, rfl⟩ | ⟨i, -, hx⟩ := hacc
    · exact abort_keeps hi hready .illegalCommand w
    · exact exec_keeps hi hready hx

end Sys2Proof.Machine

/-! PROOFS. The bound on the stream, the values at reset, STAT, and the abort of a reader that is not initialised. -/

namespace Sys2Proof.Machine

/-! ## How long the stream is -/

/-- The source delivers at most the bytes the budget allows, and fewer if something else than the budget ends the stream. -/
theorem sourceBytes_length (o : Bool) (k : Nat) (es : List SrcEvent) :
    (sourceBytes o k es).length ≤ k ∧ (sourceEnd o k es ≠ .outOfBudget → (sourceBytes o k es).length < k) := by
  induction o, k, es using sourceBytes.induct with
  | case1 o es => simp [sourceBytes, sourceEnd]
  | case2 o k => simp [sourceBytes]
  | case3 o k es => simp [sourceBytes]
  | case4 o k es ih => simpa [sourceBytes, sourceEnd] using ih
  | case5 k e c b es ih => simpa [sourceBytes, sourceEnd] using ih
  | case6 k e c b es x hx ih => simpa [sourceBytes, sourceEnd, hx] using ih
  | case7 k e c b es hx => simp [sourceBytes, hx]
  | case8 k e c b es hx => simp [sourceBytes, hx]

theorem length_flatMap_cachedBits (bs : List Byte) : (bs.flatMap (cachedBits · 8)).length = 8 * bs.length := by
  induction bs with
  | nil => rfl
  | cons b bs ih => rw [List.flatMap_cons, List.length_append, cachedBits_length, ih, List.length_cons]; omega

/-- The stream holds the bits of the cache and eight for each byte the source delivers. -/
theorem stream_length (s : State) :
    s.stream.length = s.bitsLeft.toNat + 8 * (sourceBytes s.srcOutstanding s.budget.toNat s.source).length := by
  rw [State.stream, List.length_append, cachedBits_length, length_flatMap_cachedBits]

/-- Settles O55: each byte the budget allows is worth eight bits. -/
theorem streamBoundedByBudget : Obligations.StreamBoundedByBudget := by
  intro s
  obtain ⟨hle, hlt⟩ := sourceBytes_length s.srcOutstanding s.budget.toNat s.source
  rw [stream_length]
  refine ⟨by omega, fun he => ?_⟩
  have := hlt he
  omega

/-! ## Reset and STAT -/

/-- Settles O9: `State.reset` is these values. -/
theorem resetLeavesStatedValues : Obligations.ResetLeavesStatedValues :=
  ⟨rfl, rfl, rfl, rfl, rfl, rfl, rfl, rfl, rfl, rfl, rfl, rfl, by decide⟩

theorem busy_iff (s : State) : busy s = true ↔ s.engineState = .exec ∨ s.engineState = .waitSrc := by
  simp [busy]

/-- The fields of STAT that are wider than a bit (10_state R35). Its width is written as the sum of its nine pieces, so that
the library's lemmas on an appended vector see them. -/
theorem statView_fields (s : State) :
    (statView s).extractLsb' 0 32 = s.budget ∧ (statView s).extractLsb' 32 4 = s.bitsLeft ∧
      (statView s).extractLsb' 36 8 = s.curByte ∧ (statView s).extractLsb' 46 4 = s.faultCause ∧
      (statView s).extractLsb' 52 12 = 0#12 := by
  refine ⟨?_, ?_, ?_, ?_, ?_⟩ <;>
    change BitVec.extractLsb' (n := 12 + 1 + 1 + 4 + 1 + 1 + 8 + 4 + 32) _ _ _ = _ <;>
    simp (disch := decide) only [statView, BitVec.extractLsb'_append_eq_of_le, BitVec.extractLsb'_append_eq_of_add_le,
      Nat.reduceSub, Nat.sub_self, BitVec.extractLsb'_eq_self]

/-- The fields of STAT of one bit (10_state R35). -/
theorem statView_flags (s : State) :
    (statView s).getLsbD 44 = s.initDone ∧ (statView s).getLsbD 45 = s.fault ∧ (statView s).getLsbD 50 = busy s ∧
      (statView s).getLsbD 51 = s.rspPending := by
  refine ⟨?_, ?_, ?_, ?_⟩ <;>
    change BitVec.getLsbD (w := 12 + 1 + 1 + 4 + 1 + 1 + 8 + 4 + 32) _ _ = _ <;>
    simp only [statView, BitVec.getLsbD_append, BitVec.getLsbD_ofBool, Nat.reduceLT, Nat.reduceSub] <;> simp

/-- Settles O15: STAT field by field; outside reset the outputs are their elements. -/
theorem statLayout : Obligations.StatLayout := by
  intro s
  obtain ⟨hbudget, hleft, hbyte, hcause, hzero⟩ := statView_fields s
  obtain ⟨hinit, hfault, hbusy, hpending⟩ := statView_flags s
  exact ⟨hbudget, hleft, hbyte, hinit, hfault, hcause, by rw [hbusy, busy_iff], hpending, hzero,
    fun hr => ⟨by simp [stat, hr], by simp [rspValid, hr], by simp [abortOut, hr]⟩⟩

/-! ## NOT_INITIALISED -/

theorem whenInitialised_of_not {s : State} (h : s.initDone = false) (run : State) :
    whenInitialised s run = raiseAbort .notInitialised s := by
  simp [whenInitialised, h]

/-- Settles O45: every command but INIT begins with the check. -/
theorem notInitialisedAborts : Obligations.NotInitialisedAborts := by
  intro i s hi h
  obtain ⟨b, rfl⟩ | rfl | ⟨ty, n, rfl⟩ | ⟨n, rfl⟩ := instr_cases i
  · exact absurd rfl (hi b)
  · exact congrArg Host.Outcome.next (whenInitialised_of_not h _)
  · rw [exec_field]; exact congrArg Host.Outcome.next (whenInitialised_of_not h _)
  · exact congrArg Host.Outcome.next (whenInitialised_of_not h _)

end Sys2Proof.Machine

/-! PROOFS. A command that waits and goes on is one run: what BitRead and FieldRead do beside the fields they read, and what
they do with more source events. -/

namespace Sys2Proof.Machine

/-! ## Updates that a BitRead does not see -/

/-- An update of the state beside the bit cache, the budget, the source port and `ENGINE_STATE`: it changes nothing that BitRead
reads or writes. -/
structure BesideReader (f : State → State) : Prop where
  bitsLeft : ∀ s, (f s).bitsLeft = s.bitsLeft
  budget : ∀ s, (f s).budget = s.budget
  curByte : ∀ s, (f s).curByte = s.curByte
  srcOutstanding : ∀ s, (f s).srcOutstanding = s.srcOutstanding
  source : ∀ s, (f s).source = s.source
  pullAnswered : ∀ r es s, pullAnswered r es (f s) = f (pullAnswered r es s)
  pullWaiting : ∀ o es s, pullWaiting o es (f s) = f (pullWaiting o es s)
  storeByte : ∀ b s, storeByte b (f s) = f (storeByte b s)
  dropBit : ∀ s, dropBit (f s) = f (dropBit s)

/-- An update beside the accumulator too: FieldRead does not see it either. -/
structure BesideField (f : State → State) : Prop extends BesideReader f where
  acc : ∀ s, (f s).acc = s.acc
  shiftIn : ∀ b s, shiftIn b (f s) = f (shiftIn b s)

theorem suspend_besideField (j : Job) : BesideField (suspend j) := by constructor; constructor; all_goals intros; rfl

theorem setNsV_besideField (v : Word32) : BesideField (setNsV v) := by constructor; constructor; all_goals intros; rfl

theorem bitRead_beside {f : State → State} (hf : BesideReader f) (s : State) :
    bitRead (f s) = ((bitRead s).1, f (bitRead s).2) := by
  have hnext (t : State) : nextBit (f t) = nextBit t := by rw [nextBit, nextBit, hf.curByte, hf.bitsLeft]
  have hpull : srcPull (f s) = ((srcPull s).1, f (srcPull s).2) := by
    obtain ⟨r, rest, hp, -⟩ | ⟨o, rest, hp, -, -⟩ := srcPull_cases s <;>
      simp only [srcPull, hf.srcOutstanding, hf.source, hp, hf.pullAnswered, hf.pullWaiting]
  rw [bitRead, bitRead, hf.bitsLeft, hf.budget, hpull]
  split
  · split
    · rfl
    · obtain ⟨_ | (b | _ | _), t⟩ := srcPull s <;> simp [deliver, hf.storeByte, hf.dropBit, hnext]
  · simp [deliver, hf.dropBit, hnext]

theorem fieldLoop_beside {f : State → State} (hf : BesideField f) (n : Nat) (s : State) :
    fieldLoop n (f s) = ((fieldLoop n s).1, f (fieldLoop n s).2) := by
  induction n generalizing s with
  | zero => rw [fieldLoop, fieldLoop, hf.acc]
  | succ n ih =>
    rw [fieldLoop, fieldLoop, bitRead_beside hf.toBesideReader]
    obtain ⟨b | st | _, t⟩ := bitRead s
    · simp only [hf.shiftIn, ih]
    · rfl
    · rfl

/-! ## A command does not read its own place -/

theorem runReadBit_suspend (j : Job) (s : State) : runReadBit (suspend j s) = runReadBit s := by
  rw [runReadBit, runReadBit, bitRead_beside (suspend_besideField j).toBesideReader]
  obtain ⟨b | st | _, t⟩ := bitRead s <;> rfl

theorem runField_suspend (j : Job) (ty : FieldType) (n : Nat) (s : State) :
    runField ty n (suspend j s) = runField ty n s := by
  rw [runField, runField, fieldLoop_beside (suspend_besideField j)]
  obtain ⟨a | st | k, t⟩ := fieldLoop n s <;> rfl

theorem runNsExtra_suspend (j : Job) (s : State) : runNsExtra (suspend j s) = runNsExtra s := by
  rw [runNsExtra, runNsExtra, fieldLoop_beside (suspend_besideField j)]
  obtain ⟨a | st | k, t⟩ := fieldLoop 1 s <;> rfl

theorem afterNsFirst_suspend (j : Job) (s : State) : afterNsFirst (suspend j s) = afterNsFirst s := by
  have hextra := runNsExtra_suspend j (clearAcc s)
  rw [afterNsFirst, afterNsFirst, ← hextra]
  rfl

theorem runNsFirst_suspend (j : Job) (n : Nat) (s : State) : runNsFirst n (suspend j s) = runNsFirst n s := by
  rw [runNsFirst, runNsFirst, fieldLoop_beside (suspend_besideField j)]
  obtain ⟨v | st | k, t⟩ := fieldLoop n s
  · exact afterNsFirst_suspend j (setNsV v t)
  · rfl
  · rfl

/-! ## More source events -/

/-- The source shows `es` after what it will show anyway. -/
def feed (es : List SrcEvent) (s : State) : State := { s with source := s.source ++ es }

/-- A pull over events that never fall quiet is answered before any further ones, or waits at their end and goes on with
them. -/
theorem pullFrom_append (o : Bool) (es more : List SrcEvent) (hq : .quiet ∉ es) :
    (∃ r rest, pullFrom o es = ⟨some r, false, rest⟩ ∧ pullFrom o (es ++ more) = ⟨some r, false, rest ++ more⟩) ∨
      ∃ o', pullFrom o es = ⟨none, o', []⟩ ∧ pullFrom o (es ++ more) = pullFrom o' more := by
  induction es generalizing o with
  | nil => exact .inr ⟨o, rfl, rfl⟩
  | cons e es ih =>
    have hq' : .quiet ∉ es := fun h => hq (List.mem_cons_of_mem _ h)
    cases e with
    | quiet => simp at hq
    | ready => exact ih true hq'
    | answer e c b =>
      cases o with
      | true => exact .inl ⟨classify e c b, es, rfl, rfl⟩
      | false => exact ih false hq'

/-- A BitRead that has waited goes on with the pull it is in. -/
theorem bitRead_pullWaiting {o : Bool} {es : List SrcEvent} {s : State} (h0 : s.bitsLeft = 0#4) (hb : s.budget ≠ 0#32)
    (h : pullFrom s.srcOutstanding s.source = pullFrom o es) : bitRead s = bitRead (pullWaiting o es s) := by
  have hpull : srcPull s = srcPull (pullWaiting o es s) := by
    rw [srcPull, srcPull, pullWaiting_srcOutstanding, pullWaiting_source, h]
    obtain ⟨_ | r, o', rest⟩ := pullFrom o es <;> rfl
  simp only [bitRead, pullWaiting_bitsLeft, pullWaiting_budget, h0, hb, if_true, if_false, hpull]

/-- A BitRead whose pull delivers a byte. -/
theorem bitRead_byte {s : State} (h0 : s.bitsLeft = 0#4) (hb : s.budget ≠ 0#32) {b : Byte} {rest : List SrcEvent}
    (hp : pullFrom s.srcOutstanding s.source = ⟨some (.byte b), false, rest⟩) :
    bitRead s = (.ok (b.getLsbD 7), dropBit (storeByte b (pullAnswered (.byte b) rest s))) := by
  simp [bitRead, srcPull, h0, hb, hp, deliver, nextBit]

/-- With more source events a BitRead that was not kept waiting is the same, and one that was goes on. -/
theorem bitRead_feed (es : List SrcEvent) {s : State} (hq : .quiet ∉ s.source) :
    (∃ b t, bitRead s = (.ok b, t) ∧ .quiet ∉ t.source ∧ bitRead (feed es s) = (.ok b, feed es t)) ∨
      (∃ st t, bitRead s = (.err st, t)) ∨
      (∃ t, bitRead s = (.waiting, t) ∧ t.source = [] ∧ bitRead (feed es s) = bitRead (feed es t)) := by
  obtain ⟨h0, h⟩ | ⟨-, -, h⟩ | ⟨h0, hb, b, rest, hp, h⟩ | ⟨-, -, r, rest, -, -, h⟩ | ⟨h0, hb, o, rest, hp, -, h⟩ :=
    bitRead_cases s
  · exact .inl ⟨_, _, h, hq, if_neg h0⟩
  · exact .inr (.inl ⟨_, _, h⟩)
  · have hsuffix : rest <:+ s.source := by simpa [hp] using pullFrom_suffix s.srcOutstanding s.source
    obtain ⟨r, rest', hp', hfeed⟩ | ⟨o, hp', -⟩ :=
      pullFrom_append s.srcOutstanding s.source es hq <;> rw [hp] at hp' <;> cases hp'
    exact .inl ⟨_, _, h, fun hm => hq (hsuffix.mem hm), bitRead_byte (s := feed es s) h0 hb hfeed⟩
  · exact .inr (.inl ⟨_, _, h⟩)
  · obtain ⟨r, rest', hp', -⟩ | ⟨o', hp', hfeed⟩ :=
      pullFrom_append s.srcOutstanding s.source es hq <;> rw [hp] at hp' <;> cases hp'
    exact .inr (.inr ⟨_, h, rfl, bitRead_pullWaiting h0 hb hfeed⟩)

/-- With more source events a FieldRead that was not kept waiting is the same, and one that was goes on with the bits it had
left. -/
theorem fieldLoop_feed (es : List SrcEvent) (n : Nat) {s : State} (hq : .quiet ∉ s.source) :
    (∃ a t, fieldLoop n s = (.ok a, t) ∧ .quiet ∉ t.source ∧ fieldLoop n (feed es s) = (.ok a, feed es t)) ∨
      (∃ st t, fieldLoop n s = (.err st, t)) ∨
      (∃ k t, 1 ≤ k ∧ k ≤ n ∧ fieldLoop n s = (.waiting k, t) ∧ t.source = [] ∧
        fieldLoop n (feed es s) = fieldLoop k (feed es t)) := by
  induction n generalizing s with
  | zero => exact .inl ⟨_, _, rfl, hq, rfl⟩
  | succ n ih =>
    obtain ⟨b, u, h, hqu, hfeed⟩ | ⟨st, u, h⟩ | ⟨u, h, hu, hfeed⟩ := bitRead_feed es hq <;> simp only [fieldLoop, h]
    · obtain ⟨a, t, ht, hqt, hft⟩ | ⟨st, t, ht⟩ | ⟨k, t, hk1, hk, ht, hst, hft⟩ := ih (s := shiftIn b u) hqu
      · exact .inl ⟨a, t, ht, hqt, by rw [hfeed]; exact hft⟩
      · exact .inr (.inl ⟨st, t, ht⟩)
      · exact .inr (.inr ⟨k, t, hk1, by omega, ht, hst, by rw [hfeed]; exact hft⟩)
    · exact .inr (.inl ⟨st, u, rfl⟩)
    · exact .inr (.inr ⟨n + 1, u, by omega, le_rfl, rfl, hu, by rw [fieldLoop, hfeed]⟩)

/-! ## Waiting and going on -/

/-- Where `run` waits from `s`, all source events are used up, and running it with more of them is going on with these. -/
def GoesOn (run : State → State) (es : List SrcEvent) (s : State) : Prop :=
  busy (run s) = true → (run s).source = [] ∧ run (feed es s) = resume (feed es (run s))

theorem GoesOn.of_not_busy {run : State → State} {es : List SrcEvent} {s : State} (h : busy (run s) = false) :
    GoesOn run es s := fun hb => by simp [h] at hb

theorem runReadBit_goesOn (es : List SrcEvent) {s : State} (hq : .quiet ∉ s.source) : GoesOn runReadBit es s := by
  obtain ⟨b, t, h, -, -⟩ | ⟨st, t, h⟩ | ⟨t, h, ht, hfeed⟩ := bitRead_feed es hq
  · exact .of_not_busy (by rw [runReadBit, h]; rfl)
  · exact .of_not_busy (by rw [runReadBit, h]; rfl)
  · intro _
    rw [runReadBit, runReadBit, h, hfeed]
    exact ⟨ht, (runReadBit_suspend .readBit (feed es t)).symm⟩

theorem runField_goesOn (ty : FieldType) (n : Nat) (es : List SrcEvent) {s : State} (hq : .quiet ∉ s.source) :
    GoesOn (runField ty n) es s := by
  obtain ⟨a, t, h, -, -⟩ | ⟨st, t, h⟩ | ⟨k, t, -, -, h, ht, hfeed⟩ := fieldLoop_feed es n hq
  · exact .of_not_busy (by rw [runField, h]; rfl)
  · exact .of_not_busy (by rw [runField, h]; rfl)
  · intro _
    rw [runField, runField, h, hfeed]
    exact ⟨ht, (runField_suspend (.field ty k) ty k (feed es t)).symm⟩

theorem runNsExtra_goesOn (es : List SrcEvent) {s : State} (hq : .quiet ∉ s.source) : GoesOn runNsExtra es s := by
  obtain ⟨a, t, h, -, -⟩ | ⟨st, t, h⟩ | ⟨k, t, hk1, hk, h, ht, hfeed⟩ := fieldLoop_feed es 1 hq
  · exact .of_not_busy (by rw [runNsExtra, h]; rfl)
  · exact .of_not_busy (by rw [runNsExtra, h]; rfl)
  · intro _
    obtain rfl : k = 1 := by omega
    rw [runNsExtra, runNsExtra, h, hfeed]
    exact ⟨ht, (runNsExtra_suspend .nsExtra (feed es t)).symm⟩

theorem afterNsFirst_goesOn (es : List SrcEvent) {s : State} (hq : .quiet ∉ s.source) : GoesOn afterNsFirst es s := by
  by_cases hshort : s.nsV.toNat < s.nsM.toNat
  · exact .of_not_busy (by rw [afterNsFirst, if_pos hshort]; rfl)
  · have hrun : afterNsFirst s = runNsExtra (clearAcc s) := if_neg hshort
    have hrun' : afterNsFirst (feed es s) = runNsExtra (feed es (clearAcc s)) := if_neg hshort
    rw [GoesOn, hrun, hrun']
    exact runNsExtra_goesOn es hq

theorem runNsFirst_goesOn (n : Nat) (es : List SrcEvent) {s : State} (hq : .quiet ∉ s.source) :
    GoesOn (runNsFirst n) es s := by
  obtain ⟨v, t, h, hqt, hfeed⟩ | ⟨st, t, h⟩ | ⟨k, t, -, -, h, ht, hfeed⟩ := fieldLoop_feed es n hq
  · rw [GoesOn, runNsFirst, runNsFirst, h, hfeed]
    exact afterNsFirst_goesOn es (s := setNsV v t) hqt
  · exact .of_not_busy (by rw [runNsFirst, h]; rfl)
  · intro _
    rw [runNsFirst, runNsFirst, h, hfeed]
    exact ⟨ht, (runNsFirst_suspend (.nsFirst k) k (feed es t)).symm⟩

/-- A waiting command going on from its place. -/
def Job.run : Job → State → State
  | .readBit => runReadBit
  | .field ty left => runField ty left
  | .nsFirst left => runNsFirst left
  | .nsExtra => runNsExtra

theorem resume_eq_run {j : Job} {s : State} (h : s.job = some j) : resume s = j.run s := by
  rw [resume, h]
  cases j <;> rfl

theorem resume_goesOn (es : List SrcEvent) {s : State} (hj : s.job.isSome = true) (hq : .quiet ∉ s.source) :
    GoesOn resume es s := by
  obtain ⟨j, hjob⟩ := Option.isSome_iff_exists.1 hj
  have hjob' : (feed es s).job = some j := hjob
  rw [GoesOn, resume_eq_run hjob, resume_eq_run hjob']
  cases j with
  | readBit => exact runReadBit_goesOn es hq
  | field ty left => exact runField_goesOn ty left es hq
  | nsFirst left => exact runNsFirst_goesOn left es hq
  | nsExtra => exact runNsExtra_goesOn es hq

/-! The body of each command, from an initialised reader. -/

theorem exec_readBit_run {s : State} (hi : s.initDone = true) : exec .readBit s = .next (runReadBit s) :=
  congrArg Host.Outcome.next (if_pos hi)

theorem exec_field_run (ty : FieldType) {n : Word32} {s : State} (hi : s.initDone = true) (hn : n.toNat ≤ 32) :
    exec (ty.command n) s = .next (runField ty n.toNat (clearAcc s)) := by
  have hwide : ¬ widthTooLarge n = true := fun h => absurd (of_decide_eq_true h) (not_lt.2 hn)
  exact (exec_field ty n s).trans (congrArg Host.Outcome.next ((if_pos hi).trans (if_neg hwide)))

theorem exec_ns_run {n : Word32} {s : State} (hi : s.initDone = true) (hn : n ≠ 0#32) :
    exec (.ns n) s = .next (runNsFirst (nsWidth n - 1) (clearAcc (setNsParams n s))) := by
  have hempty : ¬ alphabetEmpty n = true := by simpa [alphabetEmpty] using hn
  exact congrArg Host.Outcome.next ((if_pos hi).trans (if_neg hempty))

/-- A command just accepted that waits has used up the source events, and with more of them it is its going on with these. -/
theorem exec_goesOn (es : List SrcEvent) {i : Instr} {s t : State} (hq : .quiet ∉ s.source) (h : exec i s = .next t)
    (hb : busy t = true) : t.source = [] ∧ exec i (feed es s) = .next (resume (feed es t)) := by
  obtain ⟨b, -, rfl⟩ | ⟨c, rfl, -⟩ | ⟨hi, ⟨rfl, rfl⟩ | ⟨ty, n, rfl, hn, rfl⟩ | ⟨n, rfl, hn, rfl⟩⟩ := exec_cases i s t h
  · exact absurd hb Bool.false_ne_true
  · exact absurd hb Bool.false_ne_true
  · obtain ⟨ht, hrun⟩ := runReadBit_goesOn es hq hb
    exact ⟨ht, (exec_readBit_run (s := feed es s) hi).trans (congrArg _ hrun)⟩
  · obtain ⟨ht, hrun⟩ := runField_goesOn ty n.toNat es (s := clearAcc s) hq hb
    exact ⟨ht, (exec_field_run ty (s := feed es s) hi hn).trans (congrArg _ hrun)⟩
  · obtain ⟨ht, hrun⟩ := runNsFirst_goesOn (nsWidth n - 1) es (s := clearAcc (setNsParams n s)) hq hb
    exact ⟨ht, (exec_ns_run (s := feed es s) hi hn).trans (congrArg _ hrun)⟩

/-- A busy engine that no reset meets goes on with its command (10_state R31, log 10). -/
theorem step_of_busy {s : State} (hb : busy s = true) (hr : rstAsserted s = false) (hd : resetDue s = false) :
    step s = .next (resume s) := by
  have hturn : turn s = .resume := by
    cases he : s.engineState <;> simp_all [turn, busy]
  rw [step, hturn, takeTurn]

theorem feed_of_nil {s : State} (h : s.source = []) (es : List SrcEvent) : feed es s = { s with source := es } := by
  rw [feed, h, List.nil_append]

/-- Settles O58: a pull that waits at the end of the events goes on with the next ones, so a BitRead, a FieldRead and a
command do. -/
theorem waitingThenGoingOnIsOneRun : Obligations.WaitingThenGoingOnIsOneRun := by
  refine ⟨fun s => step_of_busy, fun s t es1 es2 hq hb => ⟨fun i h => ?_, fun hj h => ?_⟩⟩
  · obtain ⟨ht, hrun⟩ := exec_goesOn es2 (s := { s with source := es1 }) hq h hb
    rwa [feed_of_nil ht] at hrun
  · subst h
    obtain ⟨ht, hrun⟩ := resume_goesOn es2 (s := { s with source := es1 }) hj hq hb
    rwa [feed_of_nil ht] at hrun

end Sys2Proof.Machine

/-! PROOFS. `ACC`, `W`, `M` and `V` are written before they are read. -/

namespace Sys2Proof.Machine

/-- `s` with other values of `ACC`, `W`, `M` and `V`. -/
def State.withTemps (a : Word32) (w : BitVec 6) (m : BitVec 33) (v : Word32) (s : State) : State :=
  { s with acc := a, nsW := w, nsM := m, nsV := v }

/-- `s` with other values of `W`, `M` and `V`. -/
def State.withNsTemps (w : BitVec 6) (m : BitVec 33) (v : Word32) (s : State) : State :=
  { s with nsW := w, nsM := m, nsV := v }

theorem withTemps_besideReader (a : Word32) (w : BitVec 6) (m : BitVec 33) (v : Word32) :
    BesideReader (State.withTemps a w m v) := by
  constructor <;> intros <;> rfl

theorem withNsTemps_besideField (w : BitVec 6) (m : BitVec 33) (v : Word32) : BesideField (State.withNsTemps w m v) := by
  constructor; constructor; all_goals intros; rfl

/-- `t'` is `t` but for what `ACC`, `W`, `M` and `V` hold. -/
def SameButTemps (t t' : State) : Prop := t'.withTemps t.acc t.nsW t.nsM t.nsV = t

theorem SameButTemps.initDone {s t : State} (h : SameButTemps s t) : t.initDone = s.initDone := by
  rw [SameButTemps] at h
  rw [← h]
  rfl

/-- The check of `INIT_DONE` does not see the temporaries. -/
theorem whenInitialised_sameButTemps {s s' run run' : State} (hs : SameButTemps s s') (hr : SameButTemps run run') :
    SameButTemps (whenInitialised s run) (whenInitialised s' run') := by
  rw [whenInitialised, whenInitialised, hs.initDone]
  split
  · exact hr
  · exact congrArg (raiseAbort .notInitialised) hs

/-- READ_BIT writes none of them and reads none of them. -/
theorem runReadBit_withTemps (a : Word32) (w : BitVec 6) (m : BitVec 33) (v : Word32) (s : State) :
    SameButTemps (runReadBit s) (runReadBit (s.withTemps a w m v)) := by
  rw [runReadBit, runReadBit, bitRead_beside (withTemps_besideReader a w m v)]
  obtain ⟨b | st | _, t⟩ := bitRead s <;> rfl

/-- The F commands write `ACC` first, and read no other of them. -/
theorem runField_withNsTemps (w : BitVec 6) (m : BitVec 33) (v : Word32) (ty : FieldType) (n : Nat) (s : State) :
    SameButTemps (runField ty n s) (runField ty n (s.withNsTemps w m v)) := by
  rw [runField, runField, fieldLoop_beside (withNsTemps_besideField w m v)]
  obtain ⟨b | st | k, t⟩ := fieldLoop n s <;> rfl

/-- NS writes `V` when its first field is complete, and does not read it before. -/
theorem runNsFirst_setNsV (v : Word32) (n : Nat) (s : State) :
    SameButTemps (runNsFirst n s) (runNsFirst n (setNsV v s)) := by
  rw [runNsFirst, runNsFirst, fieldLoop_beside (setNsV_besideField v)]
  obtain ⟨u | st | k, t⟩ := fieldLoop n s <;> rfl

theorem execField_withTemps (a : Word32) (w : BitVec 6) (m : BitVec 33) (v : Word32) (ty : FieldType) (n : Word32)
    (s : State) : SameButTemps (execField ty n s) (execField ty n (s.withTemps a w m v)) := by
  refine whenInitialised_sameButTemps rfl ?_
  split
  · rfl
  · exact runField_withNsTemps w m v ty n.toNat (clearAcc s)

theorem runNs_withTemps (a : Word32) (w : BitVec 6) (m : BitVec 33) (v : Word32) (n : Word32) (s : State) :
    SameButTemps (runNs n s) (runNs n (s.withTemps a w m v)) := by
  refine whenInitialised_sameButTemps rfl ?_
  split
  · rfl
  · exact runNsFirst_setNsV v (nsWidth n - 1) (clearAcc (setNsParams n s))

/-- Settles O59: INIT and READ_BIT read none of the temporaries, F clears `ACC` first, and NS writes `W`, `M` and `ACC` first
and `V` before it compares it. -/
theorem temporariesWrittenBeforeRead : Obligations.TemporariesWrittenBeforeRead := by
  intro i s t a w m v h
  obtain ⟨b, rfl⟩ | rfl | ⟨ty, n, rfl⟩ | ⟨n, rfl⟩ := instr_cases i
  · injection h with h
    exact ⟨_, rfl, h ▸ rfl⟩
  · injection h with h
    exact ⟨_, rfl, h ▸ whenInitialised_sameButTemps rfl (runReadBit_withTemps a w m v s)⟩
  · rw [exec_field] at h ⊢
    injection h with h
    exact ⟨_, rfl, h ▸ execField_withTemps a w m v ty n s⟩
  · injection h with h
    exact ⟨_, rfl, h ▸ runNs_withTemps a w m v n s⟩

end Sys2Proof.Machine

/-! PROOFS. The statements of 20_memory.md: the stream READ_BIT and the F commands take their bits from, the classification of a
source answer, and INIT, which starts the stream anew. -/

namespace Sys2Proof.Machine

/-! ## A response -/

theorem responds_respond (st : Status) (v : Value) (s : State) : responds (respond st v s) st v :=
  ⟨rfl, rfl, rfl, rfl, rfl⟩

@[simp] theorem respond_stream (st : Status) (v : Value) (s : State) : (respond st v s).stream = s.stream := rfl

@[simp] theorem respond_streamEnd (st : Status) (v : Value) (s : State) : (respond st v s).streamEnd = s.streamEnd := rfl

/-! ## READ_BIT and the stream -/

/-- A stream that holds a bit: BitRead delivers it and leaves the rest of the stream. -/
theorem bitRead_of_stream_cons {s : State} {b : Bool} {bs : List Bool} (hs : s.stream = b :: bs) :
    ∃ t, bitRead s = (.ok b, t) ∧ t.stream = bs ∧ t.streamEnd = s.streamEnd := by
  obtain ⟨b', t, h, hst, hend⟩ | ⟨-, hempty, -⟩ | ⟨-, -, -, hempty, -⟩ | ⟨-, -, -, hempty, -⟩ :=
    bitRead_stream s
  · rw [hs, List.cons.injEq] at hst
    obtain ⟨rfl, hbs⟩ := hst
    exact ⟨t, h, hbs.symm, hend⟩
  all_goals exact absurd (hs.symm.trans hempty) (List.cons_ne_nil b bs)

theorem runReadBit_of_ok {s t : State} {b : Bool} (h : bitRead s = (.ok b, t)) :
    runReadBit s = respond .ok (bitWord 64 b) t := by
  rw [runReadBit, h]

/-- Settles O25: the BitRead of READ_BIT takes the head of the stream, and the response leaves the stream alone. -/
theorem readBitDeliversStreamHead : Obligations.ReadBitDeliversStreamHead := by
  intro s b bs hi hs
  obtain ⟨t, hread, hst, hend⟩ := bitRead_of_stream_cons hs
  exact ⟨respond .ok (bitWord 64 b) t, by rw [exec_readBit_run hi, runReadBit_of_ok hread], responds_respond _ _ t, hst, hend⟩

/-- What is left of a byte just stored when its first bit is taken. -/
theorem dropBit_storeByte (b : Byte) (s : State) :
    dropBit (storeByte b s) = { s with curByte := b, bitsLeft := 7#4, budget := s.budget - 1#32 } := by
  have hleft : 8#4 - 1#4 = 7#4 := by decide
  rw [dropBit, storeByte_bitsLeft, hleft]
  rfl

/-- Settles O27: the pull uses the two events, and BitRead takes the first of the 8 bits it stores. -/
theorem readBitPullsOneByte : Obligations.ReadBitPullsOneByte := by
  intro s b es hi h0 hb hsrc
  have hpull : pullFrom s.srcOutstanding s.source = ⟨some (.byte b), false, es⟩ := by rw [hsrc]; rfl
  rw [exec_readBit_run hi, runReadBit_of_ok (bitRead_byte h0 hb hpull), dropBit_storeByte]
  rfl

/-! ## The F commands and the stream -/

theorem bitsValue_lt (bs : List Bool) : bitsValue bs < 2 ^ bs.length := by
  induction bs with
  | nil => simp [bitsValue]
  | cons b bs ih =>
    have hb : b.toNat * 2 ^ bs.length ≤ 1 * 2 ^ bs.length := Nat.mul_le_mul_right _ b.toNat_le
    rw [bitsValue, List.length_cons, pow_succ]
    omega

theorem runField_of_ok (ty : FieldType) {n : Nat} {s t : State} {a : Word32} (h : fieldLoop n s = (.ok a, t)) :
    runField ty n s = respond .ok (narrow Config.wordBits ty a) t := by
  rw [runField, h]

/-- Settles O30: the FieldRead takes the field from the stream into a cleared accumulator, which has room for 32 bits. -/
theorem fieldReadsStreamMsbFirst : Obligations.FieldReadsStreamMsbFirst := by
  intro ty n s bs rest hi hn hs hl
  obtain ⟨t, hread, hacc, hst, hend⟩ :=
    fieldLoop_stream n.toNat (clearAcc s) bs rest hs hl 0 (by simp) (by omega)
  refine ⟨respond .ok (narrow Config.wordBits ty t.acc) t, ?_, ?_, hl ▸ bitsValue_lt bs, responds_respond _ _ t, hst, hend⟩
  · rw [exec_field_run ty hi hn, runField_of_ok ty hread]
  · simpa using hacc

/-! ## INIT and the stream -/

/-- A reader just started has no bit in the cache: its stream is that of the bytes within the budget (40_control R104). -/
theorem startReader_stream (b : Word32) (s : State) :
    (startReader b s).stream = (sourceBytes s.srcOutstanding b.toNat s.source).flatMap (cachedBits · 8) := by
  simp [State.stream, cachedBits]

/-- Settles O17: INIT starts the reader and answers. -/
theorem initDiscardsCachedBits : Obligations.InitDiscardsCachedBits :=
  fun b s => ⟨respond .ok 0#64 (startReader b s), rfl, startReader_stream b s, rfl, rfl⟩

/-! ## The classification of a source answer -/

@[simp] theorem classify_error (c : BitVec 1) (b : Byte) : classify true c b = .fail := rfl

@[simp] theorem classify_byte (b : Byte) : classify false 1#1 b = .byte b := rfl

@[simp] theorem classify_short (b : Byte) : classify false 0#1 b = .short := rfl

/-- A BitRead does not tell a pull answered `Short` from one answered `Fail` (41_bit_read R112). -/
theorem bitRead_of_pull_failed {s t : State} {r : PullResult} (h0 : s.bitsLeft = 0#4) (hb : s.budget ≠ 0#32)
    (hr : r = .short ∨ r = .fail) (h : srcPull s = (some r, t)) : bitRead s = (.err .sourceExhausted, t) := by
  rw [bitRead, if_pos h0, if_neg hb, h]
  obtain rfl | rfl := hr <;> rfl

/-- Settles O22: `classify` by its cases, and a BitRead on a failed pull. -/
theorem pullClassification : Obligations.PullClassification := by
  refine ⟨classify_error, classify_byte, classify_short, fun s h0 hb hpull => ?_⟩
  obtain h | h := hpull
  · rw [bitRead_of_pull_failed h0 hb (.inl rfl) (Prod.ext h rfl)]
  · rw [bitRead_of_pull_failed h0 hb (.inr rfl) (Prod.ext h rfl)]

end Sys2Proof.Machine

/-! PROOFS. The statements of 30_encoding.md: the word of a command, the illegal words, the opcode map, the assembler, and the
step that accepts a word, takes a response, or waits for the source. -/

namespace Sys2Proof

/-! ## The word of a command -/

theorem commandWord_toNat (n : Word32) {p : CmdWord} (hp : p.toNat < 2 ^ 32) :
    (commandWord n p).toNat = n.toNat * 2 ^ 32 + p.toNat := by
  have hn : (n.setWidth 64 <<< 32).toNat = 2 ^ 32 * n.toNat := by
    rw [BitVec.toNat_shiftLeft, BitVec.toNat_setWidth, Nat.shiftLeft_eq]
    omega
  rw [commandWord, BitVec.toNat_or, hn, ← Nat.two_pow_add_eq_or_of_lt hp, Nat.mul_comm]

/-- The fields of a word are digits of its number. -/
theorem splitWord_commandWord (n : Word32) {p : CmdWord} (hp : p.toNat < 2 ^ 32) :
    splitWord (commandWord n p) = ⟨p.extractLsb' 0 4, p.extractLsb' 4 3, p.extractLsb' 7 25, n⟩ := by
  have hw := commandWord_toNat n hp
  simp only [splitWord, Fields.mk.injEq, BitVec.toNat_eq, BitVec.extractLsb'_toNat, Nat.shiftRight_eq_div_pow, hw]
  omega

theorem splitWord_injective : Function.Injective splitWord := by
  intro v w h
  simp only [splitWord, Fields.mk.injEq, BitVec.toNat_eq, BitVec.extractLsb'_toNat, Nat.shiftRight_eq_div_pow] at h
  apply BitVec.eq_of_toNat_eq
  omega

theorem splitWord_encode (i : Instr) : splitWord (encode i) = i.fields := by
  cases i <;> exact splitWord_commandWord _ (by decide)

theorem decode_encode (i : Instr) : decode (encode i) = .ok i := by
  rw [decode, splitWord_encode, decodeFields_fields]

theorem encode_of_decode {w : CmdWord} {i : Instr} (h : decode w = .ok i) : encode i = w :=
  splitWord_injective ((splitWord_encode i).trans (decodeFields_inv _ _ h).symm)

/-- Settles O2: the word of a command splits into the fields the decoder reads as that command. -/
theorem decodeInvertsEncode : Obligations.DecodeInvertsEncode := decode_encode

/-- Settles O3: the word of the command has the fields the command was read from, and these are the whole word. -/
theorem encodeInvertsDecode : Obligations.EncodeInvertsDecode := fun _ _ => encode_of_decode

/-- Settles O1: the decoder run on the ten words. -/
theorem specWordsDecode : Obligations.SpecWordsDecode := by
  unfold Obligations.SpecWordsDecode
  decide

/-! ## The illegal words -/

theorem decode_error_iff (w : CmdWord) : (∃ e, decode w = .error e) ↔ (splitWord w).wellFormed = false := by
  rw [← Bool.not_eq_true, ← decodeFields_ok_iff, decode]
  cases decodeFields (splitWord w) <;> simp

theorem Fields.opKnown_eq_false_iff (f : Fields) : f.opKnown = false ↔ f.op = 0#4 ∨ 5 ≤ f.op.toNat := by
  simp only [Fields.opKnown, Bool.or_eq_false_iff, beq_eq_false_iff_ne]
  bv_omega

theorem Fields.tyLegal_eq_false_iff (f : Fields) :
    f.tyLegal = false ↔ (f.op = 3#4 ∧ 6 ≤ f.ty.toNat) ∨ (f.op ≠ 3#4 ∧ f.ty ≠ 0#3) := by
  by_cases h : f.op = 3#4
  · simp [Fields.tyLegal, h, BitVec.lt_def, Nat.succ_le_iff]
  · simp [Fields.tyLegal, h]

theorem Fields.operandLegal_eq_false_iff (f : Fields) :
    f.operandLegal = false ↔ f.op = 2#4 ∧ f.operand ≠ 0#32 := by
  simp [Fields.operandLegal]

/-- The list of 30_encoding R77. -/
theorem Fields.wellFormed_eq_false_iff (f : Fields) :
    f.wellFormed = false ↔
      f.rsv ≠ 0#25 ∨ (f.op = 0#4 ∨ 5 ≤ f.op.toNat) ∨ (f.op = 3#4 ∧ 6 ≤ f.ty.toNat) ∨
        ((f.op = 1#4 ∨ f.op = 2#4 ∨ f.op = 4#4) ∧ f.ty ≠ 0#3) ∨ (f.op = 2#4 ∧ f.operand ≠ 0#32) := by
  have hop : f.op ≠ 3#4 ↔ (f.op = 0#4 ∨ 5 ≤ f.op.toNat) ∨ f.op = 1#4 ∨ f.op = 2#4 ∨ f.op = 4#4 := by bv_omega
  simp only [Fields.wellFormed, Bool.and_eq_false_iff, Fields.opKnown_eq_false_iff, Fields.tyLegal_eq_false_iff,
    Fields.operandLegal_eq_false_iff, hop, Fields.rsvZero, beq_eq_false_iff_ne]
  tauto

/-! ## The opcode map -/

/-- The row of the opcode map a command stands in (30_encoding R85). -/
def Instr.row : Instr → OpcodeRow
  | .init _ => ⟨0x00000001, 0x00000000FFFFFFFF⟩
  | .readBit => ⟨0x00000002, 0xFFFFFFFFFFFFFFFF⟩
  | .fBool _ => ⟨0x00000003, 0x00000000FFFFFFFF⟩
  | .fU8 _ => ⟨0x00000013, 0x00000000FFFFFFFF⟩
  | .fU16 _ => ⟨0x00000023, 0x00000000FFFFFFFF⟩
  | .fU32 _ => ⟨0x00000033, 0x00000000FFFFFFFF⟩
  | .fU64 _ => ⟨0x00000043, 0x00000000FFFFFFFF⟩
  | .fWord _ => ⟨0x00000053, 0x00000000FFFFFFFF⟩
  | .ns _ => ⟨0x00000004, 0x00000000FFFFFFFF⟩

theorem filter_eq_row_length (i : Instr) : (opcodeRows.filter (· == i.row)).length = 1 := by
  cases i <;> rfl

/-- A row with an operand asks for its match in the lower half of the word and leaves the upper half open. -/
theorem operandRow_holds_iff (w : CmdWord) {p : CmdWord} (hp : p.toNat < 2 ^ 32) :
    OpcodeRow.holds ⟨p, 0x00000000FFFFFFFF⟩ w = true ↔ ∃ n, commandWord n p = w := by
  have hmask : (w &&& 0x00000000FFFFFFFF).toNat = w.toNat % 2 ^ 32 := by
    rw [BitVec.toNat_and]
    exact Nat.and_two_pow_sub_one_eq_mod _ 32
  simp only [OpcodeRow.holds, beq_iff_eq, BitVec.toNat_eq, hmask, commandWord_toNat _ hp]
  constructor
  · intro h
    refine ⟨BitVec.ofNat 32 (w.toNat / 2 ^ 32), ?_⟩
    rw [BitVec.toNat_ofNat]
    omega
  · rintro ⟨n, hn⟩
    omega

theorem row_holds_encode (i : Instr) : i.row.holds (encode i) = true := by
  cases i
  case readBit => decide
  all_goals exact (operandRow_holds_iff _ (by decide)).2 ⟨_, rfl⟩

/-- A word that a row of the map matches is the word of a command of that row. -/
theorem exists_encode_of_row_holds {r : OpcodeRow} (hr : r ∈ opcodeRows) {w : CmdWord} (h : r.holds w = true) :
    ∃ i, i.row = r ∧ encode i = w := by
  simp only [opcodeRows, List.mem_cons, List.not_mem_nil, or_false] at hr
  obtain rfl | rfl | rfl | rfl | rfl | rfl | rfl | rfl | rfl := hr
  · exact ((operandRow_holds_iff w (by decide)).1 h).imp' .init fun _ h => ⟨rfl, h⟩
  · exact ⟨.readBit, rfl, (beq_iff_eq.1 h).symm.trans (BitVec.and_allOnes (x := w))⟩
  · exact ((operandRow_holds_iff w (by decide)).1 h).imp' .fBool fun _ h => ⟨rfl, h⟩
  · exact ((operandRow_holds_iff w (by decide)).1 h).imp' .fU8 fun _ h => ⟨rfl, h⟩
  · exact ((operandRow_holds_iff w (by decide)).1 h).imp' .fU16 fun _ h => ⟨rfl, h⟩
  · exact ((operandRow_holds_iff w (by decide)).1 h).imp' .fU32 fun _ h => ⟨rfl, h⟩
  · exact ((operandRow_holds_iff w (by decide)).1 h).imp' .fU64 fun _ h => ⟨rfl, h⟩
  · exact ((operandRow_holds_iff w (by decide)).1 h).imp' .fWord fun _ h => ⟨rfl, h⟩
  · exact ((operandRow_holds_iff w (by decide)).1 h).imp' .ns fun _ h => ⟨rfl, h⟩

theorem encode_injective : Function.Injective encode := fun i j h =>
  Except.ok.inj ((decode_encode i).symm.trans ((congrArg decode h).trans (decode_encode j)))

/-- A row of the map matches the word of a command exactly when it is the command's own row. -/
theorem holds_encode_iff {r : OpcodeRow} (hr : r ∈ opcodeRows) (i : Instr) :
    r.holds (encode i) = true ↔ r = i.row := by
  constructor
  · intro h
    obtain ⟨j, rfl, hj⟩ := exists_encode_of_row_holds hr h
    rw [encode_injective hj]
  · rintro rfl
    exact row_holds_encode i

/-- Settles O5: a legal word is matched by the row of its command alone; a word that a row matches is legal. -/
theorem legalWordMatchesOneRow : Obligations.LegalWordMatchesOneRow := by
  intro w
  constructor
  · rintro ⟨i, hi⟩
    obtain rfl := encode_of_decode hi
    have hrows : opcodeRows.filter (·.holds (encode i)) = opcodeRows.filter (· == i.row) :=
      List.filter_congr fun r hr => by rw [Bool.eq_iff_iff, holds_encode_iff hr, beq_iff_eq]
    rw [hrows, filter_eq_row_length]
  · rintro ⟨e, he⟩
    refine List.filter_eq_nil_iff.2 fun r hr h => ?_
    obtain ⟨i, -, rfl⟩ := exists_encode_of_row_holds hr h
    rw [decode_encode] at he
    cases he

/-! ## The assembler -/

theorem assemble_operand {m : Mnemonic} (hm : m ≠ .readBit) (n : Nat) :
    assemble ⟨m, some n⟩ =
      if n < 2 ^ 32 then .ok (encode (m.command (BitVec.ofNat 32 n))) else .error .operandTooWide := by
  cases m with
  | readBit => exact absurd rfl hm
  | init | f | ns => rfl

theorem wellFormed_operand {m : Mnemonic} (hm : m ≠ .readBit) (n : Nat) :
    AsmLine.wellFormed ⟨m, some n⟩ = decide (n < 2 ^ 32) := by
  cases m with
  | readBit => exact absurd rfl hm
  | init | f | ns => rfl

/-- The assembler emits a word for exactly the well-formed lines (30_encoding R86). -/
theorem assemble_ok_iff (l : AsmLine) : (∃ w, assemble l = .ok w) ↔ l.wellFormed = true := by
  obtain ⟨m, n⟩ := l
  cases n with
  | none => cases m <;> simp [assemble, AsmLine.wellFormed]
  | some n =>
    by_cases hm : m = .readBit
    · subst hm
      simp [assemble, AsmLine.wellFormed]
    · rw [assemble_operand hm, wellFormed_operand hm, decide_eq_true_iff]
      split
      case isTrue hn => exact ⟨fun _ => hn, fun _ => ⟨_, rfl⟩⟩
      case isFalse hn => exact ⟨fun ⟨_, h⟩ => (nomatch h), fun h => absurd h hn⟩

/-- The word emitted for a mnemonic with an operand: that of its command, the operand above the match of its row. -/
theorem assemble_operand_ok {m : Mnemonic} {n : Nat} {w p : CmdWord} {i : Instr} (hm : m ≠ .readBit)
    (h : assemble ⟨m, some n⟩ = .ok w) (hi : m.command (BitVec.ofNat 32 n) = i)
    (hp : encode i = commandWord (BitVec.ofNat 32 n) p) (hlow : p.toNat < 2 ^ 32) :
    n < 2 ^ 32 ∧ decode w = .ok i ∧ w.toNat = n * 2 ^ 32 + p.toNat := by
  rw [assemble_operand hm, hi] at h
  split at h
  case isTrue hn =>
    cases h
    refine ⟨hn, decode_encode i, ?_⟩
    rw [hp, commandWord_toNat _ hlow, BitVec.toNat_ofNat, Nat.mod_eq_of_lt hn]
  case isFalse => cases h

/-- Settles O6: mnemonic by mnemonic, the word is that of its command. -/
theorem assemblerTakesWellFormedLines : Obligations.AssemblerTakesWellFormedLines := by
  intro l
  refine ⟨assemble_ok_iff l, fun w h => ?_⟩
  obtain ⟨m, n⟩ := l
  cases n with
  | none =>
    cases m with
    | readBit => cases h; decide
    | init | f | ns => cases h
  | some n =>
    rcases m with _ | _ | (_ | _ | _ | _ | _ | _) | _
    case readBit => cases h
    all_goals exact assemble_operand_ok (by decide) h rfl rfl (by decide)

end Sys2Proof

namespace Sys2Proof.Machine

/-! ## The step of a ready engine -/

theorem step_of_ready {s : State} {w : CmdWord} {h : List HostAction} (hc : cmdReady s = true)
    (hh : s.host = .command w :: h) : step s = acceptCommand w s := by
  obtain ⟨he, -, -, hr⟩ := (cmdReady_iff s).1 hc
  have hturn : turn s = .accept w := by simp [turn, resetDue, hr, he, hh, hc]
  rw [step, hturn, takeTurn]

/-- A latched word leaves what the host does after it. -/
theorem latchCommand_of_host {s : State} {a : HostAction} {h : List HostAction} (w : CmdWord) (hh : s.host = a :: h) :
    latchCommand w s = { s with cmd := w, engineState := .exec, cmdIndex := s.cmdIndex + 1, host := h } := by
  rw [latchCommand, hh, List.tail_cons]

theorem acceptCommand_of_error {w : CmdWord} {e : DecodeError} (h : decode w = .error e) (s : State) :
    acceptCommand w s = .next (raiseAbort .illegalCommand (latchCommand w s)) := by
  rw [acceptCommand, h]

theorem acceptCommand_of_ok {w : CmdWord} {i : Instr} (h : decode w = .ok i) (s : State) :
    acceptCommand w s = exec i (latchCommand w s) := by
  rw [acceptCommand, h]

/-- Settles O4: the words that are refused are those with ill-formed fields, and the step accepts and aborts. -/
theorem illegalWordsAbort : Obligations.IllegalWordsAbort := by
  refine fun w => ⟨(decode_error_iff w).trans (Fields.wellFormed_eq_false_iff (splitWord w)), fun s h e hc hh he => ?_⟩
  rw [step_of_ready hc hh, acceptCommand_of_error he, latchCommand_of_host w hh]
  rfl

/-- Settles O7: the four conditions are those of `cmd_ready`, and the step accepts and runs. -/
theorem stepRunsDecodedCommand : Obligations.StepRunsDecodedCommand := by
  intro s w h i he hp hf hr hh hi
  have hc : cmdReady s = true := (cmdReady_iff s).2 ⟨he, hp, hf, hr⟩
  refine ⟨hc, ?_⟩
  rw [step_of_ready hc hh, acceptCommand_of_ok hi, latchCommand_of_host w hh]

/-! ## The response, and the outcome of a command -/

theorem step_of_takeResponse {s : State} {h : List HostAction} (he : s.engineState = .idle)
    (hr : rstAsserted s = false) (hh : s.host = .takeResponse :: h) : step s = .next (takeResponse s) := by
  have hturn : turn s = .takeResponse := by simp [turn, resetDue, hr, he, hh]
  rw [step, hturn, takeTurn]

/-- Settles O12: the step of an idle engine whose host raises `rsp_ready` takes the pending response. -/
theorem responseTransfer : Obligations.ResponseTransfer := by
  intro s h he hp hr hh
  rw [step_of_takeResponse he hr hh, takeResponse, if_pos hp, hh, List.tail_cons]

/-- Settles O47: INIT responds, an abort halts with its cause, and every other command ends in a response or a wait that
keeps the fault state and, where it waits, the response slot. -/
theorem oneOutcomePerCommand : Obligations.OneOutcomePerCommand := by
  intro i s t h
  obtain ⟨b, -, rfl⟩ | ⟨c, rfl⟩ | ⟨hend, -⟩ := exec_ends i s t h
  · exact .inl ⟨rfl, rfl, rfl, rfl, rfl, .inl rfl⟩
  · exact .inr (.inl ⟨rfl, rfl, c.code_le.2, rfl, rfl, rfl⟩)
  · cases hend with
    | ok v u hf => exact .inl ⟨rfl, rfl, rfl, hf.fault, hf.faultCause, .inl rfl⟩
    | failed st u hst hf =>
      refine .inl ⟨rfl, rfl, rfl, hf.fault, hf.faultCause, .inr ⟨?_, rfl⟩⟩
      obtain rfl | rfl := hst
      · exact .inl rfl
      · exact .inr rfl
    | waits j u hb hf =>
      exact .inr (.inr ⟨hb, rfl, hf.fault, hf.faultCause, hf.rspPending, hf.rspStatus, hf.rspValue⟩)

/-! ## The two waits of a pull -/

theorem bitRead_of_pull_waits {s : State} {o : Bool} {rest : List SrcEvent} (h0 : s.bitsLeft = 0#4)
    (hb : s.budget ≠ 0#32) (h : pullFrom s.srcOutstanding s.source = ⟨none, o, rest⟩) :
    bitRead s = (.waiting, pullWaiting o rest s) := by
  simp [bitRead, srcPull, h0, hb, h]

/-- READ_BIT over a source that keeps its pull waiting. -/
theorem exec_readBit_of_pull_waits {s : State} {o : Bool} {rest : List SrcEvent} (hi : s.initDone = true)
    (h0 : s.bitsLeft = 0#4) (hb : s.budget ≠ 0#32)
    (h : pullFrom s.srcOutstanding s.source = ⟨none, o, rest⟩) :
    exec .readBit s = .next (suspend .readBit (pullWaiting o rest s)) := by
  rw [exec_readBit_run hi, runReadBit, bitRead_of_pull_waits h0 hb h]

/-- Settles O23: before `ready` the pull waits in EXEC, after it in WAIT_SRC. -/
theorem requestHeldUntilAccepted : Obligations.RequestHeldUntilAccepted := by
  intro s es hi h0 hb ho
  constructor
  · intro hsrc
    have hpull : pullFrom s.srcOutstanding s.source = ⟨none, false, es⟩ := by rw [ho, hsrc]; rfl
    refine ⟨_, exec_readBit_of_pull_waits hi h0 hb hpull, ?_, ?_⟩
    · simp [suspend, pullWaiting, ho]
    · simp [srcReqValid, rstAsserted]
  · intro hsrc
    have hpull : pullFrom s.srcOutstanding s.source = ⟨none, true, es⟩ := by rw [ho, hsrc]; rfl
    exact ⟨_, exec_readBit_of_pull_waits hi h0 hb hpull, rfl, rfl⟩

end Sys2Proof.Machine

namespace Sys2Proof.Machine

/-! ## The state INIT leaves -/

/-- INIT starts the reader and answers from every state, since it is exempt from NOT_INITIALISED (40_control R104). -/
theorem exec_init (b : Word32) (s : State) : exec (.init b) s = .next (respond .ok 0#64 (startReader b s)) := rfl

/-- Settles O16: the reader's fields are those of `startReader`, the response and the return to IDLE those of `respond`. -/
theorem initStartsReader : Obligations.InitStartsReader := by
  intro b s
  rw [exec_init, respond, startReader, Status.code]

end Sys2Proof.Machine

/-! PROOFS. The statements of 41_bit_read.md: when a BitRead fails and what it leaves then, what it consumes, and READ_BIT from the
cache, at the end of the stream, after a failure, and its frame. -/

namespace Sys2Proof.Machine

/-! ## BitRead, case by case -/

theorem bitRead_of_cached {s : State} (h0 : s.bitsLeft ≠ 0#4) : bitRead s = (.ok (nextBit s), dropBit s) := if_neg h0

theorem bitRead_of_empty {s : State} (h0 : s.bitsLeft = 0#4) (hb : s.budget = 0#32) :
    bitRead s = (.err .endOfBudget, s) := (if_pos h0).trans (if_pos hb)

theorem srcPull_of_answered {s : State} {r : PullResult} {o : Bool} {rest : List SrcEvent}
    (h : pullFrom s.srcOutstanding s.source = ⟨some r, o, rest⟩) : srcPull s = (some r, pullAnswered r rest s) := by
  rw [srcPull, h]

/-- END_OF_BUDGET comes from an empty cache and an empty budget alone, and writes nothing (41_bit_read R111). -/
theorem bitRead_endOfBudget {s : State} (h : (bitRead s).1 = .err .endOfBudget) :
    s.bitsLeft = 0#4 ∧ s.budget = 0#32 ∧ bitRead s = (.err .endOfBudget, s) := by
  obtain ⟨-, k⟩ | k | ⟨-, -, _, _, -, k⟩ | ⟨-, -, _, _, -, -, k⟩ | ⟨-, -, _, _, -, -, k⟩ := bitRead_cases s
  case inr.inl => exact k
  all_goals rw [k] at h; cases h

/-- SOURCE_EXHAUSTED comes from a pull answered `Short` or `Fail` alone, and leaves the state of that pull (41_bit_read
R112). -/
theorem bitRead_sourceExhausted {s : State} (h : (bitRead s).1 = .err .sourceExhausted) :
    s.bitsLeft = 0#4 ∧ s.budget ≠ 0#32 ∧ ∃ r rest, (r = .short ∨ r = .fail) ∧
      pullFrom s.srcOutstanding s.source = ⟨some r, false, rest⟩ ∧
      bitRead s = (.err .sourceExhausted, pullAnswered r rest s) := by
  obtain ⟨-, k⟩ | ⟨-, -, k⟩ | ⟨-, -, _, _, -, k⟩ | k | ⟨-, -, _, _, -, -, k⟩ := bitRead_cases s
  case inr.inr.inr.inl => exact k
  all_goals rw [k] at h; cases h

/-- Settles O18: the failure has this one case. -/
theorem bitReadEndOfBudget : Obligations.BitReadEndOfBudget := by
  refine fun s => ⟨⟨fun h => ?_, fun ⟨h0, hb⟩ => by rw [bitRead_of_empty h0 hb]⟩, fun h => ?_⟩
  · obtain ⟨h0, hb, -⟩ := bitRead_endOfBudget h
    exact ⟨h0, hb⟩
  · obtain ⟨-, -, hread⟩ := bitRead_endOfBudget h
    rw [hread]

/-- Settles O19: the failure has this one case; that a failed pull leads to it is O22. -/
theorem bitReadSourceExhausted : Obligations.BitReadSourceExhausted := by
  refine fun s => ⟨⟨fun h => ?_, fun ⟨h0, hb, hpull⟩ => ?_⟩, fun h => ?_⟩
  · obtain ⟨h0, hb, r, rest, hr, hpull, -⟩ := bitRead_sourceExhausted h
    rw [srcPull_of_answered hpull]
    exact ⟨h0, hb, hr.imp (congrArg some) (congrArg some)⟩
  · obtain ⟨-, -, -, hfails⟩ := pullClassification
    exact hfails s h0 hb hpull
  · obtain ⟨-, -, r, rest, hr, hpull, hread⟩ := bitRead_sourceExhausted h
    rw [hread]
    exact ⟨r, rest, hr, hpull, rfl⟩

/-! ## What a BitRead consumes -/

theorem bitRead_ok_stream {s t : State} {b : Bool} (h : bitRead s = (.ok b, t)) : s.stream = b :: t.stream := by
  obtain ⟨_, _, k, hs, -⟩ | ⟨k, -⟩ | ⟨_, _, k, -⟩ | ⟨_, _, k, -⟩ := bitRead_stream s <;> rw [k] at h <;> cases h
  exact hs

/-- At most one pull, and only from an empty cache: a BitRead with a bit in the cache records none (41_bit_read R114). -/
theorem bitRead_pullLog (s : State) :
    ∃ rs, (bitRead s).2.pullLog = s.pullLog ++ rs ∧ rs.length ≤ 1 ∧ (rs ≠ [] → s.bitsLeft = 0#4) := by
  obtain ⟨-, ⟨rs, hlog, -⟩, hlen⟩ := bitRead_pulls s
  refine ⟨rs, hlog, by simpa [hlog] using hlen, fun hne => ?_⟩
  by_contra h0
  rw [bitRead_of_cached h0] at hlog
  exact hne (by simpa using hlog)

/-- A failure writes neither the cache nor the budget (41_bit_read R111, R112). -/
theorem bitRead_err_reader {s t : State} {st : Status} (h : bitRead s = (.err st, t)) :
    t.bitsLeft = s.bitsLeft ∧ t.curByte = s.curByte ∧ t.budget = s.budget := by
  obtain ⟨-, k⟩ | ⟨-, -, k⟩ | ⟨-, -, _, _, -, k⟩ | ⟨-, -, _, _, -, -, k⟩ | ⟨-, -, _, _, -, -, k⟩ := bitRead_cases s <;>
    rw [k] at h <;> cases h <;> exact ⟨rfl, rfl, rfl⟩

/-- Settles O21, by its three parts. -/
theorem bitReadConsumesOneBit : Obligations.BitReadConsumesOneBit :=
  fun s => ⟨fun _ _ => bitRead_ok_stream, bitRead_pullLog s, fun _ _ => bitRead_err_reader⟩

/-! ## READ_BIT from the cache, and its frame -/

theorem exec_readBit_of_ok {s t : State} {b : Bool} (hi : s.initDone = true) (h : bitRead s = (.ok b, t)) :
    exec .readBit s = .next (respond .ok (bitWord 64 b) t) := by
  rw [exec_readBit_run hi, runReadBit_of_ok h]

/-- Settles O26: the BitRead of READ_BIT takes the bit from the cache. -/
theorem readBitFromCache : Obligations.ReadBitFromCache :=
  fun _ hi h0 => exec_readBit_of_ok hi (bitRead_of_cached h0)

/-- READ_BIT answers, or waits, in the state its BitRead leaves. -/
theorem runReadBit_cases (s : State) :
    (∃ st v, runReadBit s = respond st v (bitRead s).2) ∨ runReadBit s = suspend .readBit (bitRead s).2 := by
  rw [runReadBit]
  obtain ⟨b | st | _, t⟩ := bitRead s
  · exact .inl ⟨_, _, rfl⟩
  · exact .inl ⟨_, _, rfl⟩
  · exact .inr rfl

/-- READ_BIT writes none of `ACC`, `W`, `M` and `V` and makes at most one pull, as its BitRead does. -/
theorem runReadBit_temps_pullLog (s : State) :
    (runReadBit s).acc = s.acc ∧ (runReadBit s).nsW = s.nsW ∧ (runReadBit s).nsM = s.nsM ∧ (runReadBit s).nsV = s.nsV ∧
      (runReadBit s).pullLog.length ≤ s.pullLog.length + 1 := by
  obtain ⟨hf, hacc⟩ := bitRead_frame s
  obtain ⟨-, -, hlen⟩ := bitRead_pulls s
  obtain ⟨st, v, h⟩ | h := runReadBit_cases s <;> rw [h] <;> exact ⟨hacc, hf.nsW, hf.nsM, hf.nsV, hlen⟩

/-- Settles O51: the end of READ_BIT gives what stays around the reader, its pulls are counted, and its BitRead gives the
rest. -/
theorem readBitFrame : Obligations.ReadBitFrame := by
  intro s t hi h
  rw [exec_readBit_run hi] at h
  injection h with h
  subst h
  obtain ⟨hacc, hw, hm, hv, hlen⟩ := runReadBit_temps_pullLog s
  exact ⟨((runReadBit_end s).mono fun _ => ReadFrame.toCommandFrame).sameAround, hacc, hw, hm, hv,
    (runReadBit_pulls s).toPullsAccount, hlen⟩

/-! ## READ_BIT at the end of the stream -/

theorem runReadBit_of_err {s t : State} {st : Status} (h : bitRead s = (.err st, t)) :
    runReadBit s = respond st 0#64 t := by
  rw [runReadBit, h]

theorem runReadBit_of_waiting {s t : State} (h : bitRead s = (.waiting, t)) : runReadBit s = suspend .readBit t := by
  rw [runReadBit, h]

/-- Between `s` and `t` the whole stream of `s` was read: the cache is empty, every byte delivered is counted, and the source
port stands where the pulls left it. -/
structure StreamUsedUp (s t : State) : Prop where
  bitsLeft_eq : t.bitsLeft = 0#4
  budget_paid : t.budget.toNat + (sourceBytes s.srcOutstanding s.budget.toNat s.source).length = s.budget.toNat
  port_left : (t.srcOutstanding, t.source) = sourceLeft s.srcOutstanding s.budget.toNat s.source

theorem StreamUsedUp.failsOutOfBudget {s t : State} (h : StreamUsedUp s t) (he : s.streamEnd = .outOfBudget)
    (hb : t.budget = 0#32) (j : Job) : failsAtStreamEnd s (respond .endOfBudget 0#64 t) j := by
  rw [failsAtStreamEnd, he]
  exact ⟨h.bitsLeft_eq, h.budget_paid, h.port_left, responds_respond _ _ t, hb⟩

theorem StreamUsedUp.failsExhausted {s t : State} (h : StreamUsedUp s t) (he : s.streamEnd = .failed) (j : Job) :
    failsAtStreamEnd s (respond .sourceExhausted 0#64 t) j := by
  rw [failsAtStreamEnd, he]
  exact ⟨h.bitsLeft_eq, h.budget_paid, h.port_left, responds_respond _ _ t⟩

theorem StreamUsedUp.waits {s t : State} (h : StreamUsedUp s t) (he : s.streamEnd = .waits) (hb : busy t = true)
    (hf : CommandFrame s t) (j : Job) : failsAtStreamEnd s (suspend j t) j := by
  rw [failsAtStreamEnd, he]
  exact ⟨h.bitsLeft_eq, h.budget_paid, h.port_left, hb, rfl, hf.rspPending, hf.rspStatus, hf.rspValue⟩

/-- A BitRead over an empty stream meets its end: it is a FieldRead of one bit that the stream does not hold. -/
theorem bitRead_of_stream_nil {s : State} (hs : s.stream = []) :
    ∃ t, StreamUsedUp s t ∧
      ((s.streamEnd = .outOfBudget ∧ bitRead s = (.err .endOfBudget, t) ∧ t.budget = 0#32) ∨
        (s.streamEnd = .failed ∧ bitRead s = (.err .sourceExhausted, t)) ∨
        (s.streamEnd = .waits ∧ bitRead s = (.waiting, t) ∧ busy t = true)) := by
  obtain ⟨t, ht, hleft, hpaid, hport, hout, hwaits⟩ := fieldLoop_short 1 s (by simp [hs])
  refine ⟨t, ⟨hleft, hpaid, hport⟩, ?_⟩
  obtain ⟨b, u, -, hcons, -⟩ | ⟨h, -, he⟩ | ⟨r, rest, h, -, he⟩ | ⟨o, rest, h, -, he⟩ := bitRead_stream s
  · exact absurd (hcons.symm.trans hs) (List.cons_ne_nil b u.stream)
  all_goals rw [fieldLoop, h, he] at ht; obtain ⟨-, rfl⟩ := Prod.mk.inj ht
  · exact .inl ⟨he, h, hout he⟩
  · exact .inr (.inl ⟨he, h⟩)
  · exact .inr (.inr ⟨he, h, hwaits he⟩)

/-- Settles O28: READ_BIT ends as its BitRead meets the end of the stream. -/
theorem readBitFailsAtStreamEnd : Obligations.ReadBitFailsAtStreamEnd := by
  intro s hi hs
  refine ⟨_, exec_readBit_run hi, ?_⟩
  obtain ⟨t, hused, ⟨he, h, hb⟩ | ⟨he, h⟩ | ⟨he, h, hb⟩⟩ := bitRead_of_stream_nil hs
  · rw [runReadBit_of_err h]
    exact hused.failsOutOfBudget he hb .readBit
  · rw [runReadBit_of_err h]
    exact hused.failsExhausted he .readBit
  · obtain ⟨hf, -⟩ := bitRead_frame s
    rw [h] at hf
    rw [runReadBit_of_waiting h]
    exact hused.waits he hb hf.toCommandFrame .readBit

/-! ## After a failure -/

theorem exec_readBit_of_err {s t : State} {st : Status} (hi : s.initDone = true) (h : bitRead s = (.err st, t)) :
    exec .readBit s = .next (respond st 0#64 t) := by
  rw [exec_readBit_run hi, runReadBit_of_err h]

theorem fieldLoop_of_empty {n : Nat} {s : State} (hn : 1 ≤ n) (h0 : s.bitsLeft = 0#4) (hb : s.budget = 0#32) :
    fieldLoop n s = (.err .endOfBudget, s) := by
  obtain ⟨k, rfl⟩ := Nat.exists_eq_add_of_le' hn
  rw [fieldLoop, bitRead_of_empty h0 hb]

theorem runField_of_err (ty : FieldType) {n : Nat} {s t : State} {st : Status} (h : fieldLoop n s = (.err st, t)) :
    runField ty n s = respond st 0#64 t := by
  rw [runField, h]

theorem runNsFirst_of_err {n : Nat} {s t : State} {st : Status} (h : fieldLoop n s = (.err st, t)) :
    runNsFirst n s = respond st 0#64 t := by
  rw [runNsFirst, h]

/-- NS over an alphabet of two or more symbols reads at least one bit (43_ns_decode R141). -/
theorem one_le_nsWidth_sub_one {n : Word32} (hn : 2 ≤ n.toNat) : 1 ≤ nsWidth n - 1 := by
  obtain ⟨-, -, hlt⟩ := floorLog2_bounds n (by bv_omega)
  rw [nsWidth, Nat.add_sub_cancel]
  by_contra h
  have hzero : floorLog2 n = 0 := by omega
  rw [hzero] at hlt
  omega

/-- Settles O29: each command's first BitRead fails with END_OF_BUDGET and writes nothing. -/
theorem endOfBudgetPersists : Obligations.EndOfBudgetPersists := by
  intro s hi h0 hb
  refine ⟨exec_readBit_of_err hi (bitRead_of_empty h0 hb), fun ty n h1 h32 => ?_, fun n h2 => ?_⟩
  · have hread := fieldLoop_of_empty (s := clearAcc s) h1 h0 hb
    rw [exec_field_run ty hi h32, runField_of_err ty hread]
    rfl
  · have hread := fieldLoop_of_empty (s := clearAcc (setNsParams n s)) (one_le_nsWidth_sub_one h2) h0 hb
    rw [exec_ns_run hi (by bv_omega), runNsFirst_of_err hread]
    rfl

/-- Settles O20: the failed pull leaves the reader as it was and the source after it, so the second READ_BIT pulls again. -/
theorem sourceExhaustedIsRetried : Obligations.SourceExhaustedIsRetried := by
  intro s r b es es' hi h0 hb hr hpull hpull'
  have hfails := exec_readBit_of_err hi (bitRead_of_pull_failed h0 hb hr (srcPull_of_answered hpull))
  have hread := bitRead_byte (s := respond .sourceExhausted 0#64 (pullAnswered r es s)) h0 hb hpull'
  exact ⟨_, _, hfails, responds_respond _ _ _, rfl, rfl, exec_readBit_of_ok hi hread, responds_respond _ _ _, rfl, rfl,
    List.append_assoc s.pullLog [r] [.byte b]⟩

end Sys2Proof.Machine

/-! PROOFS. The statements of 42_field_read.md: the narrowing unit, an F command that aborts or reads no bit, the value of a field
of ones and of a BOOL field, a field the stream does not hold, and the frame of the F commands. -/

namespace Sys2Proof.Machine

/-! ## Narrow, as a number -/

/-- BOOL is "nonzero", not truncation (42_field_read R126). -/
theorem narrow_bool_toNat (wb : WordBits) (acc : Word32) :
    (narrow wb .bool acc).toNat = if acc.toNat ≠ 0 then 1 else 0 := by
  by_cases h : acc = 0#32
  · simp [narrow, h]
  · have hne : acc.toNat ≠ 0 := fun h0 => h (BitVec.eq_of_toNat_eq h0)
    simp [narrow, h, hne]

theorem narrow_u8_toNat (wb : WordBits) (acc : Word32) : (narrow wb .u8 acc).toNat = acc.toNat % 2 ^ 8 := by
  simp only [narrow, BitVec.toNat_setWidth, BitVec.extractLsb'_toNat, Nat.shiftRight_zero]
  omega

theorem narrow_u16_toNat (wb : WordBits) (acc : Word32) : (narrow wb .u16 acc).toNat = acc.toNat % 2 ^ 16 := by
  simp only [narrow, BitVec.toNat_setWidth, BitVec.extractLsb'_toNat, Nat.shiftRight_zero]
  omega

theorem narrow_u32_toNat (wb : WordBits) (acc : Word32) : (narrow wb .u32 acc).toNat = acc.toNat :=
  BitVec.toNat_setWidth_of_le (by decide)

theorem narrow_u64_toNat (wb : WordBits) (acc : Word32) : (narrow wb .u64 acc).toNat = acc.toNat :=
  BitVec.toNat_setWidth_of_le (by decide)

theorem narrow_word_toNat (wb : WordBits) (acc : Word32) :
    (narrow wb .word acc).toNat = acc.toNat % 2 ^ wb.bits := by
  have hle : acc.toNat % 2 ^ wb.bits ≤ acc.toNat := Nat.mod_le _ _
  rw [narrow, BitVec.toNat_ofNat, Nat.mod_eq_of_lt (by omega)]

/-- A platform word of 32 or 64 bits holds every accumulator. -/
theorem narrow_word_toNat_of_ne {wb : WordBits} (h : wb ≠ .w16) (acc : Word32) :
    (narrow wb .word acc).toNat = acc.toNat := by
  have hbits : 32 ≤ wb.bits := by cases wb <;> simp_all [WordBits.bits]
  rw [narrow_word_toNat, Nat.mod_eq_of_lt (acc.isLt.trans_le (Nat.pow_le_pow_right (by omega) hbits))]

/-- Settles O31, type by type. -/
theorem narrowingValues : Obligations.NarrowingValues :=
  fun wb acc => ⟨narrow_bool_toNat wb acc, narrow_u8_toNat wb acc, narrow_u16_toNat wb acc, narrow_u32_toNat wb acc,
    narrow_u64_toNat wb acc, narrow_word_toNat wb acc, fun h => narrow_word_toNat_of_ne h acc⟩

/-! ## A field of no bits, and one of more than 32 -/

theorem narrow_zero (wb : WordBits) (ty : FieldType) : narrow wb ty 0#32 = 0#64 := by
  cases ty
  case word => simp [narrow]
  all_goals rfl

/-- Settles O33: the FieldRead of no bits is the cleared accumulator, and 0 is narrowed to 0. -/
theorem zeroWidthField : Obligations.ZeroWidthField := by
  intro ty s hi
  have hread : fieldLoop (0#32).toNat (clearAcc s) = (.ok 0#32, clearAcc s) := rfl
  rw [exec_field_run ty hi (by decide), runField_of_ok ty hread, narrow_zero]
  rfl

/-- Settles O34: F_WIDTH is the check after NOT_INITIALISED. -/
theorem wideFieldAborts : Obligations.WideFieldAborts := by
  intro ty n s hi hn
  have hwide : widthTooLarge n = true := decide_eq_true hn
  rw [exec_field, execField, whenInitialised, if_pos hi, if_pos hwide]
  rfl

/-! ## The value of a field -/

theorem bitsValue_eq_zero_iff (bs : List Bool) : bitsValue bs = 0 ↔ true ∉ bs := by
  induction bs with
  | nil => simp [bitsValue]
  | cons b bs ih => cases b <;> simp [bitsValue, ih]

theorem bitsValue_replicate_true (n : Nat) : bitsValue (List.replicate n true) = 2 ^ n - 1 := by
  induction n with
  | zero => rfl
  | succ n ih =>
    have hpos := Nat.two_pow_pos n
    rw [List.replicate_succ, bitsValue, ih, List.length_replicate, pow_succ, Bool.toNat_true]
    omega

/-- The low `m` bits of a number of `n` ones are ones. -/
theorem two_pow_sub_one_mod_two_pow (n m : Nat) : (2 ^ n - 1) % 2 ^ m = 2 ^ min n m - 1 := by
  refine Nat.eq_of_testBit_eq fun i => ?_
  simp only [Nat.testBit_mod_two_pow, Nat.testBit_two_pow_sub_one, Nat.lt_min, Bool.decide_and, Bool.and_comm]

/-- Settles O35: the accumulator is the value of the bits read, which is 0 exactly where none of them is 1. -/
theorem boolFieldIsNonzero : Obligations.BoolFieldIsNonzero := by
  intro n s bs rest hi hn hs hl
  obtain ⟨t, hexec, hacc, -, hresp, hst, -⟩ := fieldReadsStreamMsbFirst .bool n s bs rest hi hn hs hl
  have hzero : t.acc = 0#32 ↔ true ∉ bs := by
    rw [← bitsValue_eq_zero_iff, ← hacc]
    exact BitVec.toNat_inj.symm
  have hvalue : narrow Config.wordBits .bool t.acc = if true ∈ bs then 1#64 else 0#64 := by
    by_cases h : true ∈ bs <;> simp [narrow, hzero, h]
  exact ⟨t, hexec, hvalue ▸ hresp, hst⟩

/-- Settles O32: the accumulator holds `n` ones, of which Narrow keeps as many as its type has bits. -/
theorem allOnesField : Obligations.AllOnesField := by
  intro ty n s rest hi h1 hn hs
  obtain ⟨t, hexec, hacc, -, ⟨-, -, hpending, hstatus, hvalue⟩, -, -⟩ :=
    fieldReadsStreamMsbFirst ty n s _ rest hi hn hs List.length_replicate
  rw [bitsValue_replicate_true] at hacc
  refine ⟨t, hexec, hacc, hpending, hstatus, ?_⟩
  rw [hvalue]
  cases ty with
  | bool =>
    have hne : 2 ^ n.toNat - 1 ≠ 0 := Nat.sub_ne_zero_of_lt (Nat.one_lt_two_pow (by omega))
    rw [narrow_bool_toNat, hacc, if_pos hne]
  | u8 => rw [narrow_u8_toNat, hacc, two_pow_sub_one_mod_two_pow]
  | u16 => rw [narrow_u16_toNat, hacc, two_pow_sub_one_mod_two_pow]
  | u32 => rw [narrow_u32_toNat, hacc]
  | u64 => rw [narrow_u64_toNat, hacc]
  | word =>
    by_cases h : Config.wordBits = .w16
    · simp only [narrow_word_toNat, hacc, h, WordBits.bits, two_pow_sub_one_mod_two_pow, if_true]
    · simp only [narrow_word_toNat_of_ne h, hacc, h, if_false]

/-! ## A field the stream does not hold -/

theorem runField_of_waiting (ty : FieldType) {n k : Nat} {s t : State} (h : fieldLoop n s = (.waiting k, t)) :
    runField ty n s = suspend (.field ty k) t := by
  rw [runField, h]

/-- A field longer than the stream ends as its FieldRead meets the end of the stream (42_field_read R123). -/
theorem runField_fails (ty : FieldType) {n : Nat} {s : State} (hl : s.stream.length < n) :
    failsAtStreamEnd s (runField ty n s) (.field ty (n - s.stream.length)) := by
  obtain ⟨t, hread, hleft, hpaid, hport, hout, hwaits⟩ := fieldLoop_short n s hl
  have hused : StreamUsedUp s t := ⟨hleft, hpaid, hport⟩
  cases he : s.streamEnd <;> rw [he] at hread
  case outOfBudget =>
    rw [runField_of_err ty hread]
    exact hused.failsOutOfBudget he (hout he) _
  case failed =>
    rw [runField_of_err ty hread]
    exact hused.failsExhausted he _
  case waits =>
    have hf := fieldLoop_frame n s
    rw [hread] at hf
    rw [runField_of_waiting ty hread]
    exact hused.waits he (hwaits he) hf.toCommandFrame _

/-- Settles O36: the field is read from the stream as it stands, since clearing the accumulator leaves the stream alone. -/
theorem fieldFailsAtStreamEnd : Obligations.FieldFailsAtStreamEnd :=
  fun ty _ s hi hn hl => ⟨_, exec_field_run ty hi hn, runField_fails ty (s := clearAcc s) hl⟩

/-! ## The frame of the F commands -/

theorem CommandEnd.nsTemps {s t : State} (h : CommandEnd ReadFrame s t) :
    t.nsW = s.nsW ∧ t.nsM = s.nsM ∧ t.nsV = s.nsV := by
  cases h with
  | ok v u h => exact ⟨h.nsW, h.nsM, h.nsV⟩
  | failed st u _ h => exact ⟨h.nsW, h.nsM, h.nsV⟩
  | waits j u _ h => exact ⟨h.nsW, h.nsM, h.nsV⟩

/-- Settles O52: the end of the field gives what stays around the reader and the temporaries of NS, and its pulls are
counted. -/
theorem fieldFrame : Obligations.FieldFrame := by
  intro ty n s t hi hn h
  rw [exec_field_run ty hi hn] at h
  injection h with h
  subst h
  have hend := runField_end ty n.toNat (clearAcc s)
  obtain ⟨hw, hm, hv⟩ := hend.nsTemps
  exact ⟨(hend.mono fun _ => ReadFrame.toCommandFrame).sameAround, hw, hm, hv,
    (runField_pulls ty n.toNat (clearAcc s)).toPullsAccount⟩

end Sys2Proof.Machine

/-! PROOFS. The statements of 43_ns_decode.md: the quantities of NS, what NS does with a stream that holds its codeword and
with one that does not, the code it decodes, and the frame of NS. -/

namespace Sys2Proof.Machine

/-! ## The quantities of NS -/

/-- `floor_log2` of the model is the library's (43_ns_decode R140). -/
theorem log2_eq_floorLog2 {x : Word32} (hx : x ≠ 0#32) : x.toNat.log2 = floorLog2 x := by
  obtain ⟨-, hlo, hhi⟩ := floorLog2_bounds x hx
  exact (Nat.log2_eq_iff (by bv_omega)).2 ⟨hlo, hhi⟩

/-- `floor_log2` is the one exponent of a power of two that leads the number. -/
theorem eq_floorLog2 {x : Word32} {k : Nat} (hlo : 2 ^ k ≤ x.toNat) (hhi : x.toNat < 2 ^ (k + 1)) : k = floorLog2 x := by
  have hpos := Nat.two_pow_pos k
  rw [← log2_eq_floorLog2 (by bv_omega)]
  exact ((Nat.log2_eq_iff (by omega)).2 ⟨hlo, hhi⟩).symm

/-- Settles O37: the bit at the leading power of two is set. -/
theorem floorLog2IsHighestBit : Obligations.FloorLog2IsHighestBit := by
  intro x hx
  obtain ⟨hle, hlo, hhi⟩ := floorLog2_bounds x hx
  exact ⟨hle, hlo, hhi, Nat.testBit_of_two_pow_le_and_two_pow_add_one_gt hlo hhi, fun k => eq_floorLog2⟩

theorem nsWidth_sub_one (n : Word32) : nsWidth n - 1 = floorLog2 n := rfl

theorem two_pow_nsWidth (n : Word32) : 2 ^ nsWidth n = 2 * 2 ^ floorLog2 n := Nat.pow_succ'

/-- Of the `2^(W-1)` values of the first field `M` are short codewords, and each other one stands for two symbols
(43_ns_decode R142). -/
theorem nsShort_add_toNat {n : Word32} (hn : n ≠ 0#32) :
    nsShort n + n.toNat = 2 * 2 ^ floorLog2 n ∧ 1 ≤ nsShort n ∧ nsShort n ≤ 2 ^ floorLog2 n := by
  obtain ⟨-, -, hhi⟩ := floorLog2_bounds n hn
  obtain ⟨-, -, hpos, hle⟩ := nsWidth_nsShort_bounds n hn
  exact ⟨(Nat.sub_add_cancel hhi.le).trans (two_pow_nsWidth n), hpos, hle⟩

/-! ## NS over a stream that holds its codeword -/

theorem runNsFirst_of_ok {n : Nat} {s t : State} {v : Word32} (h : fieldLoop n s = (.ok v, t)) :
    runNsFirst n s = afterNsFirst (setNsV v t) := by
  rw [runNsFirst, h]

theorem runNsExtra_of_ok {s t : State} {extra : Word32} (h : fieldLoop 1 s = (.ok extra, t)) :
    runNsExtra s = respond .ok (nsLong t.nsV t.nsM extra) t := by
  rw [runNsExtra, h]

/-- NS after a first field that the stream holds, in state `t`: `V` is its value and `M` that of the operand. -/
structure NsFirstRead (n : Word32) (s t : State) (bs rest : List Bool) : Prop where
  exec_eq : exec (.ns n) s = .next (afterNsFirst t)
  nsV_eq : t.nsV.toNat = bitsValue bs
  nsM_eq : t.nsM.toNat = nsShort n
  stream_eq : t.stream = rest
  streamEnd_eq : t.streamEnd = s.streamEnd
  frame : CommandFrame s t
  ahead : SameSourceAhead s t

/-- The first field of NS takes the next `W - 1` bits of the stream (43_ns_decode R141). -/
theorem exists_nsFirstRead {n : Word32} {s : State} {bs rest : List Bool} (hi : s.initDone = true) (hn : n ≠ 0#32)
    (hs : s.stream = bs ++ rest) (hl : bs.length = floorLog2 n) : ∃ t, NsFirstRead n s t bs rest := by
  obtain ⟨hle, -⟩ := floorLog2_bounds n hn
  obtain ⟨t, hread, hacc, hst, hend⟩ :=
    fieldLoop_stream (floorLog2 n) (clearAcc (setNsParams n s)) bs rest hs hl 0 (by simp) (by omega)
  have hf := fieldLoop_frame (floorLog2 n) (clearAcc (setNsParams n s))
  rw [hread] at hf
  have hahead : SameSourceAhead s t := fieldLoop_ahead _ (clearAcc (setNsParams n s)) t _ hread
  refine ⟨setNsV t.acc t, ?_, by simpa using hacc, ?_, hst, hend, ?_, hahead⟩
  · rw [exec_ns_run hi hn, nsWidth_sub_one, runNsFirst_of_ok hread]
  · rw [setNsV_nsM, hf.nsM]
    exact (setNsParams_toNat n hn s).2
  · exact (setNsParams_frame n s).trans ((clearAcc_frame _).trans (hf.toCommandFrame.trans (setNsV_frame _ t)))

/-- The first field decides between the two lengths of a codeword. -/
theorem NsFirstRead.exec_short {n : Word32} {s t : State} {bs rest : List Bool} (h : NsFirstRead n s t bs rest)
    (hv : bitsValue bs < nsShort n) : exec (.ns n) s = .next (respond .ok (t.nsV.setWidth 64) t) := by
  rw [h.exec_eq, afterNsFirst, if_pos (by rwa [h.nsV_eq, h.nsM_eq])]

theorem NsFirstRead.exec_long {n : Word32} {s t : State} {bs rest : List Bool} (h : NsFirstRead n s t bs rest)
    (hv : nsShort n ≤ bitsValue bs) : exec (.ns n) s = .next (runNsExtra (clearAcc t)) := by
  rw [h.exec_eq, afterNsFirst, if_neg (by rw [h.nsV_eq, h.nsM_eq]; omega)]

/-- NS from `s` answers `(OK, x)` and leaves `rest` of the stream. -/
def NsAnswers (n : Word32) (s : State) (x : Nat) (rest : List Bool) : Prop :=
  ∃ t, exec (.ns n) s = .next t ∧ responds t .ok (BitVec.ofNat 64 x) ∧ t.stream = rest ∧ t.streamEnd = s.streamEnd

/-- A first field below `M` is the value (43_ns_decode R141, R146). -/
theorem nsAnswers_short {n : Word32} {s : State} {bs rest : List Bool} (hi : s.initDone = true) (hn : n ≠ 0#32)
    (hs : s.stream = bs ++ rest) (hl : bs.length = floorLog2 n) (hv : bitsValue bs < nsShort n) :
    NsAnswers n s (bitsValue bs) rest := by
  obtain ⟨t, hread⟩ := exists_nsFirstRead hi hn hs hl
  have hvalue : t.nsV.setWidth 64 = BitVec.ofNat 64 (bitsValue bs) := by
    rw [← hread.nsV_eq, ← BitVec.ofNat_toNat]
  exact ⟨_, hread.exec_short hv, hvalue ▸ responds_respond _ _ t, hread.stream_eq, hread.streamEnd_eq⟩

/-- The second field of NS takes the next bit of the stream and completes a long codeword. -/
theorem runNsExtra_stream {s : State} {extra : Bool} {rest : List Bool} (ha : s.acc = 0#32)
    (hs : s.stream = extra :: rest) :
    ∃ t, runNsExtra s = respond .ok (BitVec.ofNat 64 (2 * s.nsV.toNat - s.nsM.toNat + extra.toNat)) t ∧
      t.stream = rest ∧ t.streamEnd = s.streamEnd := by
  obtain ⟨t, hread, hacc, hst, hend⟩ := fieldLoop_stream 1 s [extra] rest hs rfl 0 (by simp [ha]) (by omega)
  have hf := fieldLoop_frame 1 s
  rw [hread] at hf
  have hbit : t.acc.toNat = extra.toNat := by simpa [ha, bitsValue] using hacc
  exact ⟨t, by rw [runNsExtra_of_ok hread, nsLong, hf.nsV, hf.nsM, hbit], hst, hend⟩

/-- A first field of at least `M` takes one bit more (43_ns_decode R141, R146). -/
theorem nsAnswers_long {n : Word32} {s : State} {bs rest : List Bool} {extra : Bool} (hi : s.initDone = true)
    (hn : n ≠ 0#32) (hs : s.stream = bs ++ extra :: rest) (hl : bs.length = floorLog2 n)
    (hv : nsShort n ≤ bitsValue bs) :
    NsAnswers n s (2 * bitsValue bs - nsShort n + extra.toNat) rest := by
  obtain ⟨t, hread⟩ := exists_nsFirstRead hi hn hs hl
  obtain ⟨u, hrun, hst, hend⟩ := runNsExtra_stream (s := clearAcc t) rfl hread.stream_eq
  rw [clearAcc_nsV, clearAcc_nsM, hread.nsV_eq, hread.nsM_eq] at hrun
  refine ⟨_, hread.exec_long hv, ?_, ?_, ?_⟩ <;> rw [hrun]
  · exact responds_respond _ _ u
  · exact hst
  · exact hend.trans hread.streamEnd_eq

/-! ## The code of NS -/

theorem bitsOf_length (k x : Nat) : (bitsOf k x).length = k := by
  induction k with
  | zero => rfl
  | succ k ih => rw [bitsOf, List.length_cons, ih]

theorem bitsValue_bitsOf (k x : Nat) : bitsValue (bitsOf k x) = x % 2 ^ k := by
  induction k with
  | zero => rw [pow_zero, Nat.mod_one]; rfl
  | succ k ih => rw [bitsOf, bitsValue, bitsOf_length, ih, Nat.mod_pow_succ, Nat.toNat_testBit]; ring

/-- The codeword of a symbol is its value in `W - 1` bits, or a first field of at least `M` and one bit more, from which NS
computes the symbol (43_ns_decode R148). -/
theorem nsCode_cases {n : Word32} {x : Nat} (hx : x < n.toNat) :
    ∃ bs tail, bs.length = floorLog2 n ∧ nsCode n x = bs ++ tail ∧
      ((tail = [] ∧ x < nsShort n ∧ x = bitsValue bs) ∨
        ∃ extra : Bool, tail = [extra] ∧ nsShort n ≤ x ∧ nsShort n ≤ bitsValue bs ∧
          x = 2 * bitsValue bs - nsShort n + extra.toNat) := by
  obtain ⟨hsum, -, hle⟩ := nsShort_add_toNat (n := n) (by bv_omega)
  by_cases hshort : x < nsShort n
  · have hvalue := bitsValue_bitsOf (floorLog2 n) x
    rw [Nat.mod_eq_of_lt (by omega)] at hvalue
    exact ⟨_, [], bitsOf_length _ _, by rw [nsCode, if_pos hshort, nsWidth_sub_one, List.append_nil],
      .inl ⟨rfl, hshort, hvalue.symm⟩⟩
  · have hvalue := bitsValue_bitsOf (floorLog2 n) ((x + nsShort n) / 2)
    rw [Nat.mod_eq_of_lt (by omega)] at hvalue
    have hextra : (decide ((x + nsShort n) % 2 = 1)).toNat = (x + nsShort n) % 2 := by
      rcases Nat.mod_two_eq_zero_or_one (x + nsShort n) with h | h <;> rw [h] <;> rfl
    exact ⟨_, _, bitsOf_length _ _, by rw [nsCode, if_neg hshort, nsWidth_sub_one],
      .inr ⟨_, rfl, by omega, by omega, by omega⟩⟩

/-- Settles O40: NS reads either kind of codeword back. -/
theorem nsDecodesItsCode : Obligations.NsDecodesItsCode := by
  intro n x s rest hi hx hs
  have hn : n ≠ 0#32 := by bv_omega
  obtain ⟨bs, tail, hl, hcode, htail⟩ := nsCode_cases hx
  rw [hcode, List.append_assoc] at hs
  obtain ⟨rfl, hshort, hval⟩ | ⟨extra, rfl, -, hlong, hval⟩ := htail
  · rw [hval] at hshort ⊢
    exact nsAnswers_short hi hn hs hl hshort
  · rw [hval]
    exact nsAnswers_long hi hn hs hl hlong

/-- Settles O41: two symbols whose codewords begin alike have the same first field, so both are short or both long, and NS
computes the same symbol. -/
theorem nsCodeIsPrefixFree : Obligations.NsCodeIsPrefixFree := by
  intro n hn
  refine ⟨fun x hx => ?_, fun x y hx hy hpre => ?_, ?_⟩
  · obtain ⟨bs, tail, hl, hcode, htail⟩ := nsCode_cases hx
    rw [hcode, List.length_append, hl]
    obtain ⟨rfl, hshort, -⟩ | ⟨extra, rfl, hlong, -⟩ := htail
    · exact (if_pos hshort).symm
    · exact (if_neg (by omega)).symm
  · obtain ⟨bs, tail, hl, hcode, htail⟩ := nsCode_cases hx
    obtain ⟨cs, tail', hl', hcode', htail'⟩ := nsCode_cases hy
    obtain ⟨rest, hpre⟩ := hpre
    rw [hcode, hcode', List.append_assoc] at hpre
    obtain ⟨rfl, htails⟩ := List.append_inj hpre (hl.trans hl'.symm)
    obtain ⟨-, hshort, hval⟩ | ⟨extra, rfl, -, hlong, hval⟩ := htail <;>
      obtain ⟨-, hshort', hval'⟩ | ⟨extra', rfl, -, hlong', hval'⟩ := htail'
    · exact hval.trans hval'.symm
    · omega
    · omega
    · obtain ⟨rfl, -⟩ := List.cons.inj htails
      exact hval.trans hval'.symm
  · obtain ⟨hsum, -, hle⟩ := nsShort_add_toNat hn
    rw [nsWidth_sub_one]
    omega

/-! ## The lengths and ranges of NS -/

/-- Settles O39: the two lengths of a codeword; the first field is below `2^(W-1)`. -/
theorem nsLengthAndRange : Obligations.NsLengthAndRange := by
  intro n s bs rest hi hn hs hl
  obtain ⟨hsum, -, hle⟩ := nsShort_add_toNat hn
  have hlt := bitsValue_lt bs
  rw [hl] at hlt
  refine ⟨fun hshort => ?_, fun hlong extra rest' hrest => ?_⟩
  · obtain ⟨t, hexec, hresp, hst, -⟩ := nsAnswers_short hi hn hs hl hshort
    exact ⟨t, hexec, hresp, hst, by omega⟩
  · subst hrest
    obtain ⟨t, hexec, hresp, hst, -⟩ := nsAnswers_long hi hn hs hl hlong
    have hbit := extra.toNat_le
    exact ⟨t, hexec, hresp, hst, by omega, by omega⟩

/-- Settles O42: `M` is `2^k`, which no field of `k` bits reaches. -/
theorem nsPowersOfTwo : Obligations.NsPowersOfTwo := by
  intro n k hnk
  have hpos := Nat.two_pow_pos k
  have hn : n ≠ 0#32 := by bv_omega
  have hlog : k = floorLog2 n := eq_floorLog2 (by omega) (by rw [pow_succ]; omega)
  obtain ⟨hsum, -, -⟩ := nsShort_add_toNat hn
  rw [← hlog] at hsum
  have hshort : nsShort n = 2 ^ k := by omega
  refine ⟨by rw [nsWidth, ← hlog], hshort, fun s bs rest hi hs hl => ?_⟩
  obtain ⟨t, hexec, hresp, hst, -⟩ :=
    nsAnswers_short hi hn hs (hl.trans hlog) (hshort ▸ hl ▸ bitsValue_lt bs)
  exact ⟨t, hexec, hresp, hst⟩

/-! ## NS over a stream that does not hold its codeword -/

theorem runNsFirst_of_waiting {n k : Nat} {s t : State} (h : fieldLoop n s = (.waiting k, t)) :
    runNsFirst n s = suspend (.nsFirst k) t := by
  rw [runNsFirst, h]

theorem runNsExtra_of_err {s t : State} {st : Status} (h : fieldLoop 1 s = (.err st, t)) :
    runNsExtra s = respond st 0#64 t := by
  rw [runNsExtra, h]

theorem runNsExtra_of_waiting {k : Nat} {s t : State} (h : fieldLoop 1 s = (.waiting k, t)) :
    runNsExtra s = suspend .nsExtra t := by
  rw [runNsExtra, h]

/-- A command that hands on how its FieldRead fails or waits ends as a field longer than the stream does
(42_field_read R123). -/
theorem failsAtStreamEnd_of_fieldLoop {n : Nat} {s run : State} {j : Job} (hl : s.stream.length < n)
    (herr : ∀ st t, fieldLoop n s = (.err st, t) → run = respond st 0#64 t)
    (hwait : ∀ t, fieldLoop n s = (.waiting (n - s.stream.length), t) → run = suspend j t) :
    failsAtStreamEnd s run j := by
  obtain ⟨t, hread, hleft, hpaid, hport, hout, hwaits⟩ := fieldLoop_short n s hl
  have hused : StreamUsedUp s t := ⟨hleft, hpaid, hport⟩
  cases he : s.streamEnd <;> rw [he] at hread
  case outOfBudget => exact herr _ t hread ▸ hused.failsOutOfBudget he (hout he) j
  case failed => exact herr _ t hread ▸ hused.failsExhausted he j
  case waits =>
    have hf := fieldLoop_frame n s
    rw [hread] at hf
    exact hwait t hread ▸ hused.waits he (hwaits he) hf.toCommandFrame j

theorem runNsFirst_fails {n : Nat} {s : State} (hl : s.stream.length < n) :
    failsAtStreamEnd s (runNsFirst n s) (.nsFirst (n - s.stream.length)) :=
  failsAtStreamEnd_of_fieldLoop hl (fun _ _ => runNsFirst_of_err) fun _ => runNsFirst_of_waiting

theorem runNsExtra_fails {s : State} (hs : s.stream = []) : failsAtStreamEnd s (runNsExtra s) .nsExtra :=
  failsAtStreamEnd_of_fieldLoop (n := 1) (by simp [hs]) (fun _ _ => runNsExtra_of_err) fun _ => runNsExtra_of_waiting

/-- The end of the stream met after some of its bits were read is that of the whole stream. -/
theorem failsAtStreamEnd_of_ahead {s t u : State} {j : Job} (ha : SameSourceAhead s t) (hf : CommandFrame s t)
    (he : t.streamEnd = s.streamEnd) (h : failsAtStreamEnd t u j) : failsAtStreamEnd s u j := by
  obtain ⟨hahead, hleft⟩ := ha
  rw [failsAtStreamEnd, hleft, he, hf.rspPending, hf.rspStatus, hf.rspValue] at h
  obtain ⟨hbits, hpaid, hport, hend⟩ := h
  exact ⟨hbits, by omega, hport, hend⟩

/-- Settles O44: the stream ends in the first field, or after it, where the second one meets its end. -/
theorem nsFailsWithinCodeword : Obligations.NsFailsWithinCodeword := by
  intro n s hi hn
  refine ⟨fun hl => ?_, fun hl hlong => ?_⟩
  · exact ⟨_, exec_ns_run hi hn, runNsFirst_fails (s := clearAcc (setNsParams n s)) hl⟩
  · obtain ⟨t, hread⟩ := exists_nsFirstRead hi hn (List.append_nil _).symm hl
    exact ⟨_, hread.exec_long hlong, failsAtStreamEnd_of_ahead hread.ahead hread.frame hread.streamEnd_eq
      (runNsExtra_fails (s := clearAcc t) hread.stream_eq)⟩

/-! ## The aborts and the frame of NS -/

/-- Settles O43: NS_ZERO is the check after NOT_INITIALISED. -/
theorem nsZeroAborts : Obligations.NsZeroAborts :=
  fun _ hi => congrArg Host.Outcome.next ((if_pos hi).trans (if_pos rfl))

/-- NS of a codeword writes nothing of what `sameAround` names (43_ns_decode R145). -/
theorem runNsFirst_sameAround (k : Nat) (n : Word32) (s : State) :
    sameAround s (runNsFirst k (clearAcc (setNsParams n s))) :=
  ((runNsFirst_end k (clearAcc (setNsParams n s))).mono fun _ hu =>
    (setNsParams_frame n s).trans ((clearAcc_frame _).trans hu)).sameAround

/-- The reads of NS leave `W` and `M` alone. -/
theorem runNsFirst_params (k : Nat) (s : State) : (runNsFirst k s).nsW = s.nsW ∧ (runNsFirst k s).nsM = s.nsM := by
  have hf := fieldLoop_frame k s
  obtain ⟨t, h⟩ | ⟨st, t, -, h⟩ | ⟨left, t, -, -, -, h⟩ := fieldLoop_cases k s <;> rw [h] at hf
  · rw [runNsFirst_of_ok h, afterNsFirst]
    split
    · exact ⟨hf.nsW, hf.nsM⟩
    · obtain ⟨hw, hm, -⟩ := (runNsExtra_end (clearAcc (setNsV t.acc t))).nsTemps
      exact ⟨hw.trans hf.nsW, hm.trans hf.nsM⟩
  · rw [runNsFirst_of_err h]
    exact ⟨hf.nsW, hf.nsM⟩
  · rw [runNsFirst_of_waiting h]
    exact ⟨hf.nsW, hf.nsM⟩

/-- Settles O53: `W` and `M` are set before the first read, and the pulls are those of the reads. -/
theorem nsFrame : Obligations.NsFrame := by
  intro n s t hi hn h
  rw [exec_ns_run hi hn] at h
  injection h with h
  subst h
  obtain ⟨hw, hm⟩ := runNsFirst_params (nsWidth n - 1) (clearAcc (setNsParams n s))
  obtain ⟨hw', hm'⟩ := setNsParams_toNat n hn s
  exact ⟨runNsFirst_sameAround _ n s, hw ▸ hw', hm ▸ hm',
    (runNsFirst_pulls (nsWidth n - 1) (clearAcc (setNsParams n s))).toPullsAccount⟩

/-- NS aborts with NOT_INITIALISED or NS_ZERO alone (43_ns_decode R142). -/
theorem exec_ns_faultCause {n : Word32} {s t : State} (h : exec (.ns n) s = .next t) :
    t.faultCause = 2#4 ∨ t.faultCause = 4#4 ∨ t.faultCause = s.faultCause := by
  injection h with h
  subst h
  obtain ⟨-, h⟩ | ⟨-, -, h⟩ | ⟨-, -, h⟩ := runNs_cases n s
  · exact .inl (congrArg State.faultCause h)
  · exact .inr (.inl (congrArg State.faultCause h))
  · obtain ⟨-, -, hcause, -⟩ := runNsFirst_sameAround (nsWidth n - 1) n s
    exact .inr (.inr ((congrArg State.faultCause h).trans hcause))

/-- Settles O38: `V` is a value of `W - 1` bits; NS has no abort of cause 3. -/
theorem nsQuantitiesInRange : Obligations.NsQuantitiesInRange := by
  intro n hn
  obtain ⟨hle31, hlo, hhi⟩ := floorLog2_bounds n hn
  obtain ⟨hw1, hw32, hm1, hm⟩ := nsWidth_nsShort_bounds n hn
  obtain ⟨hsum, -, -⟩ := nsShort_add_toNat hn
  refine ⟨⟨hw1, hw32, hlo, hhi⟩, ⟨hm1, hm, hsum.trans (two_pow_nsWidth n).symm⟩, hle31, fun bs hl => ?_,
    fun s t hs h => ?_⟩
  · exact ⟨hl ▸ bitsValue_lt bs, fun hlong => by omega⟩
  · obtain hcause | hcause | hcause := exec_ns_faultCause h <;> rw [hcause]
    · decide
    · decide
    · exact hs

end Sys2Proof.Machine

/-! PROOFS. The statements of 60_exceptions.md: what an abort writes, which word raises which one, and the way out of HALTED. -/

namespace Sys2Proof.Machine

/-! ## A command that aborts -/

/-- A response leaves the engine IDLE and a wait leaves it BUSY, so neither is an abort. -/
theorem CommandEnd.not_halted {R : State → State → Prop} {s t : State} (h : CommandEnd R s t) :
    t.engineState ≠ .halted := by
  cases h with
  | ok v u _ => simp
  | failed st u _ _ => simp
  | waits j u hb _ =>
    intro hu
    obtain he | he := (busy_iff u).1 hb <;> cases he.symm.trans hu

/-- Why accepting the word `w` aborts where `INIT_DONE` is `d`, in the order of priority (60_exceptions R207). -/
inductive AbortsFor (d : Bool) (w : CmdWord) : AbortCause → Prop
  | illegal (e : DecodeError) : decode w = .error e → AbortsFor d w .illegalCommand
  | uninit (i : Instr) : decode w = .ok i → d = false → AbortsFor d w .notInitialised
  | wide (ty : FieldType) (n : Word32) : decode w = .ok (ty.command n) → d = true → 32 < n.toNat →
      AbortsFor d w .fWidth
  | zero : decode w = .ok (.ns 0#32) → d = true → AbortsFor d w .nsZero

/-- A command that ends HALTED has raised an abort, and done nothing else. -/
theorem exec_eq_raiseAbort {i : Instr} {s t : State} (h : exec i s = .next t) (ht : t.engineState = .halted) :
    ∃ c, t = raiseAbort c s ∧ ∀ w, decode w = .ok i → AbortsFor s.initDone w c := by
  obtain ⟨b, -, rfl⟩ | ⟨c, hc, hwhy⟩ | ⟨-, ⟨-, rfl⟩ | ⟨ty, n, -, -, rfl⟩ | ⟨n, -, -, rfl⟩⟩ := exec_cases i s t h
  · cases ht
  · refine ⟨c, hc, fun w hw => ?_⟩
    obtain ⟨hi, rfl⟩ | ⟨hi, rfl, ty, n, rfl, hn⟩ | ⟨hi, rfl, rfl⟩ := hwhy
    · exact .uninit i hw hi
    · exact .wide ty n hw hi hn
    · exact .zero hw hi
  · exact absurd ht (runReadBit_end _).not_halted
  · exact absurd ht (runField_end ty _ _).not_halted
  · exact absurd ht (runNsFirst_end _ _).not_halted

theorem cmdReady_of_halted {s : State} (h : s.engineState = .halted) : cmdReady s = false := by
  simp [cmdReady, h]

/-- Settles O46: such a command is `raiseAbort`, whose writes are the three. -/
theorem abortIsPrecise : Obligations.AbortIsPrecise := by
  intro i s t h ht
  obtain ⟨c, rfl, -⟩ := exec_eq_raiseAbort h ht
  exact ⟨⟨c, rfl⟩, rfl, cmdReady_of_halted ht⟩

/-! ## Who sets `FAULT` -/

/-- Of the outcomes of a command only the abort writes `FAULT`. -/
theorem exec_halted_of_fault_ne {i : Instr} {s t : State} (h : exec i s = .next t) (hne : t.fault ≠ s.fault) :
    t.engineState = .halted := by
  obtain ⟨-, -, -, hf, -⟩ | ⟨ht, -⟩ | ⟨-, -, hf, -⟩ := oneOutcomePerCommand i s t h
  · exact absurd hf hne
  · exact ht
  · exact absurd hf hne

/-- A step that sets `FAULT` is the acceptance of a word that aborts. -/
theorem step_sets_fault {s t : State} (h : step s = .next t) (hs : s.fault = false) (ht : t.fault = true) :
    ∃ w rest c, cmdReady s = true ∧ s.host = .command w :: rest ∧ t = raiseAbort c (latchCommand w s) ∧
      AbortsFor s.initDone w c := by
  have hne : t.fault ≠ s.fault := by simp [hs, ht]
  obtain ⟨-, rfl⟩ | ⟨-, -, rfl⟩ | ⟨-, -, -, rfl⟩ | ⟨-, -, -, rfl⟩ | ⟨-, -, rfl⟩ | ⟨w, rest, hready, hh, hacc⟩ :=
    step_cases s t h
  · cases ht
  · exact absurd rfl hne
  · obtain ⟨-, hfault, -⟩ := resume_sameAround s
    exact absurd hfault hne
  · obtain h | h := takeResponse_cases s <;> rw [h] at hne <;> exact absurd rfl hne
  · exact absurd rfl hne
  · obtain ⟨e, hd, rfl⟩ | ⟨i, hd, hx⟩ := hacc
    · exact ⟨w, rest, _, hready, hh, rfl, .illegal e hd⟩
    · obtain ⟨c, hc, hwhy⟩ := exec_eq_raiseAbort hx (exec_halted_of_fault_ne hx hne)
      exact ⟨w, rest, c, hready, hh, hc, hwhy w hd⟩

/-- A cause read off the word and `INIT_DONE`: the code of the first check that fails (60_exceptions R202, R207). -/
theorem AbortsFor.code {d : Bool} {w : CmdWord} {c : AbortCause} (h : AbortsFor d w c) :
    ((∃ e, decode w = .error e) → c.code = 1#4) ∧
      ∀ i, decode w = .ok i →
        (d = false → c.code = 2#4) ∧
        (d = true →
          (c.code = 3#4 ∧ ∃ ty n, i = FieldType.command ty n ∧ 32 < n.toNat) ∨ (c.code = 4#4 ∧ i = .ns 0#32)) := by
  cases h with
  | illegal e he => simp [he, AbortCause.code]
  | uninit j hj h0 => simp [hj, h0, AbortCause.code]
  | wide ty n hj h1 hn =>
    refine ⟨by simp [hj], fun i hi => ⟨by simp [h1], fun _ => .inl ⟨rfl, ty, n, ?_, hn⟩⟩⟩
    cases hi.symm.trans hj; rfl
  | zero hj h1 =>
    refine ⟨by simp [hj], fun i hi => ⟨by simp [h1], fun _ => .inr ⟨rfl, ?_⟩⟩⟩
    cases hi.symm.trans hj; rfl

/-- Settles O48: only the acceptance of a word that aborts sets `FAULT`, and it writes the latch and the abort alone. -/
theorem faultSetOnlyByAbort : Obligations.FaultSetOnlyByAbort := by
  intro s t h hs ht
  obtain ⟨w, rest, c, hready, hh, rfl, hwhy⟩ := step_sets_fault h hs ht
  obtain ⟨-, -, -, hrst⟩ := (cmdReady_iff s).1 hready
  have habort : abortOut (raiseAbort c (latchCommand w s)) = true := congrArg not hrst
  have hstat : stat (raiseAbort c (latchCommand w s)) = statView (raiseAbort c (latchCommand w s)) :=
    if_neg (Bool.eq_false_iff.1 hrst)
  exact ⟨w, rest, hready, hh, rfl, rfl, rfl, rfl, rfl, rfl, rfl, rfl, habort, hstat, cmdReady_of_halted rfl, hwhy.code⟩

/-! ## The way out of HALTED -/

/-- An edge with `rst = 1` takes priority over everything (70_reset R241). -/
theorem step_of_rstAsserted {s : State} (hr : rstAsserted s = true) : step s = .next (engineReset s) := by
  rw [step, turn, if_pos hr, takeTurn]

/-- Where a reset is the host's next action, `rst` rises before anything else moves (log 13). -/
theorem step_of_resetDue {s : State} (hr : rstAsserted s = false) (hd : resetDue s = true) :
    step s = .next (raiseRst s) := by
  rw [step, turn, if_neg (Bool.eq_false_iff.1 hr), if_pos hd, takeTurn]

/-- A HALTED engine without a reset next stops with its cause (60_exceptions R219, log 5). -/
theorem step_of_halted {s : State} (hh : s.engineState = .halted) (hr : rstAsserted s = false)
    (hd : resetDue s = false) : step s = .fault (.halted s.faultCause) := by
  have hturn : turn s = .halted := by simp [turn, hr, hd, hh]
  rw [step, hturn, takeTurn]

/-- Settles O49: under the invariant `FAULT` means HALTED, which steps to the stop, to the rise of `rst` or to its edge. -/
theorem faultLeftOnlyByReset : Obligations.FaultLeftOnlyByReset := by
  intro s hinv hf
  have hhalted : s.engineState = .halted := hinv.fault_iff.1 hf
  refine ⟨fun hr => ⟨by simp [abortOut, hf, hr], cmdReady_of_halted hhalted, step_of_halted hhalted hr, fun hd => ?_⟩,
    fun hr => ⟨_, step_of_rstAsserted hr, rfl, rfl, rfl⟩⟩
  exact ⟨_, step_of_resetDue hr hd, hf, rfl, _, step_of_rstAsserted rfl, rfl, rfl, rfl⟩

end Sys2Proof.Machine

/-! PROOFS. The statements of 70_reset_and_hazards.md: source answers that no pull asked for, reset, and the two stuck runs. -/

namespace Sys2Proof.Machine

/-! ## Answers while no pull is outstanding -/

/-- The source shows `spurious` before what it will show anyway. -/
def precede (spurious : List SrcEvent) (s : State) : State := { s with source := spurious ++ s.source }

/-- Every event is an answer, so a pull that is not outstanding passes over all of them. -/
def AllAnswers (es : List SrcEvent) : Prop := ∀ a ∈ es, ∃ e c b, a = .answer e c b

/-- A run over the further answers ends in `t'` and one without them in `t`: alike, or with the answers not yet reached. -/
def SameButUnreached (spurious : List SrcEvent) (t t' : State) : Prop := t' = t ∨ t' = precede spurious t

/-- A read over the further answers ended as `r'` and one without them as `r`: alike, or with the answers not yet reached and
no pull outstanding, so that what comes next passes over them too. -/
def ReadsPast {α : Type} (spurious : List SrcEvent) (r r' : α × State) : Prop :=
  r' = r ∨ r' = (r.1, precede spurious r.2) ∧ r.2.srcOutstanding = false

section
variable {spurious : List SrcEvent} (hans : AllAnswers spurious)
include hans

/-- A pull takes no answer before the source has accepted its request (70_reset R247). -/
theorem pullFrom_answers_append (es : List SrcEvent) : pullFrom false (spurious ++ es) = pullFrom false es := by
  induction spurious with
  | nil => rfl
  | cons a as ih =>
    obtain ⟨e, c, b, rfl⟩ := hans a List.mem_cons_self
    exact ih fun x hx => hans x (List.mem_cons_of_mem _ hx)

theorem srcPull_precede {s : State} (ho : s.srcOutstanding = false) : srcPull (precede spurious s) = srcPull s := by
  have hpull : pullFrom (precede spurious s).srcOutstanding (precede spurious s).source =
      pullFrom s.srcOutstanding s.source := by
    rw [ho]
    exact (congrArg (pullFrom · _) ho).trans (pullFrom_answers_append hans s.source)
  rw [srcPull, srcPull, hpull]
  rfl

/-- A BitRead that pulls passes over the answers, and one that does not leaves them where they are. -/
theorem bitRead_precede {s : State} (ho : s.srcOutstanding = false) :
    ReadsPast spurious (bitRead s) (bitRead (precede spurious s)) := by
  by_cases h0 : s.bitsLeft = 0#4
  · by_cases hb : s.budget = 0#32
    · rw [bitRead_of_empty h0 hb, bitRead_of_empty (s := precede spurious s) h0 hb]
      exact .inr ⟨rfl, ho⟩
    · have h0' : (precede spurious s).bitsLeft = 0#4 := h0
      have hb' : (precede spurious s).budget ≠ 0#32 := hb
      refine .inl ?_
      rw [bitRead, bitRead, if_pos h0, if_neg hb, if_pos h0', if_neg hb', srcPull_precede hans ho]
  · rw [bitRead_of_cached h0, bitRead_of_cached (s := precede spurious s) h0]
    exact .inr ⟨rfl, ho⟩

/-- Once one of its BitReads has passed over the answers, the rest of a FieldRead is the same. -/
theorem fieldLoop_precede (n : Nat) {s : State} (ho : s.srcOutstanding = false) :
    ReadsPast spurious (fieldLoop n s) (fieldLoop n (precede spurious s)) := by
  induction n generalizing s with
  | zero => exact .inr ⟨rfl, ho⟩
  | succ n ih =>
    rw [fieldLoop, fieldLoop]
    obtain h | ⟨h, ht⟩ := bitRead_precede hans ho <;> rw [h]
    · exact .inl rfl
    · generalize bitRead s = r at ht ⊢
      obtain ⟨b | st | _, t⟩ := r
      · exact ih (s := shiftIn b t) ht
      · exact .inr ⟨rfl, ht⟩
      · exact .inr ⟨rfl, ht⟩

theorem runReadBit_precede {s : State} (ho : s.srcOutstanding = false) :
    SameButUnreached spurious (runReadBit s) (runReadBit (precede spurious s)) := by
  rw [runReadBit, runReadBit]
  obtain h | ⟨h, -⟩ := bitRead_precede hans ho <;> rw [h]
  · exact .inl rfl
  · obtain ⟨b | st | _, t⟩ := bitRead s <;> exact .inr rfl

theorem runField_precede (ty : FieldType) (n : Nat) {s : State} (ho : s.srcOutstanding = false) :
    SameButUnreached spurious (runField ty n s) (runField ty n (precede spurious s)) := by
  rw [runField, runField]
  obtain h | ⟨h, -⟩ := fieldLoop_precede hans n ho <;> rw [h]
  · exact .inl rfl
  · obtain ⟨a | st | k, t⟩ := fieldLoop n s <;> exact .inr rfl

theorem runNsExtra_precede {s : State} (ho : s.srcOutstanding = false) :
    SameButUnreached spurious (runNsExtra s) (runNsExtra (precede spurious s)) := by
  rw [runNsExtra, runNsExtra]
  obtain h | ⟨h, -⟩ := fieldLoop_precede hans 1 ho <;> rw [h]
  · exact .inl rfl
  · obtain ⟨a | st | k, t⟩ := fieldLoop 1 s <;> exact .inr rfl

theorem afterNsFirst_precede {s : State} (ho : s.srcOutstanding = false) :
    SameButUnreached spurious (afterNsFirst s) (afterNsFirst (precede spurious s)) := by
  by_cases hshort : s.nsV.toNat < s.nsM.toNat
  · have hrun : afterNsFirst (precede spurious s) = precede spurious (respond .ok (s.nsV.setWidth 64) s) := if_pos hshort
    rw [afterNsFirst, if_pos hshort, hrun]
    exact .inr rfl
  · have hrun : afterNsFirst (precede spurious s) = runNsExtra (precede spurious (clearAcc s)) := if_neg hshort
    rw [afterNsFirst, if_neg hshort, hrun]
    exact runNsExtra_precede hans (s := clearAcc s) ho

theorem runNsFirst_precede (n : Nat) {s : State} (ho : s.srcOutstanding = false) :
    SameButUnreached spurious (runNsFirst n s) (runNsFirst n (precede spurious s)) := by
  rw [runNsFirst, runNsFirst]
  obtain h | ⟨h, ht⟩ := fieldLoop_precede hans n ho <;> rw [h]
  · exact .inl rfl
  · generalize fieldLoop n s = r at ht ⊢
    obtain ⟨v | st | k, t⟩ := r
    · exact afterNsFirst_precede hans (s := setNsV v t) ht
    · exact .inr rfl
    · exact .inr rfl

omit hans in
/-- The check of `INIT_DONE` reads nothing of the source. -/
theorem whenInitialised_precede (s : State) {run run' : State} (h : SameButUnreached spurious run run') :
    SameButUnreached spurious (whenInitialised s run) (whenInitialised (precede spurious s) run') := by
  cases hi : s.initDone
  · rw [whenInitialised_of_not hi, whenInitialised_of_not (s := precede spurious s) hi]
    exact .inr rfl
  · rwa [whenInitialised, if_pos hi, whenInitialised, if_pos (show (precede spurious s).initDone = true from hi)]

theorem execField_precede (ty : FieldType) (n : Word32) {s : State} (ho : s.srcOutstanding = false) :
    SameButUnreached spurious (execField ty n s) (execField ty n (precede spurious s)) := by
  refine whenInitialised_precede s ?_
  split
  · exact .inr rfl
  · exact runField_precede hans ty n.toNat (s := clearAcc s) ho

theorem runNs_precede (n : Word32) {s : State} (ho : s.srcOutstanding = false) :
    SameButUnreached spurious (runNs n s) (runNs n (precede spurious s)) := by
  refine whenInitialised_precede s ?_
  split
  · exact .inr rfl
  · exact runNsFirst_precede hans (nsWidth n - 1) (s := clearAcc (setNsParams n s)) ho

theorem exec_precede (i : Instr) {s t u : State} (ho : s.srcOutstanding = false)
    (ht : exec i (precede spurious s) = .next t) (hu : exec i s = .next u) : SameButUnreached spurious u t := by
  obtain ⟨b, rfl⟩ | rfl | ⟨ty, n, rfl⟩ | ⟨n, rfl⟩ := instr_cases i
  · cases ht; cases hu
    exact .inr rfl
  · cases ht; cases hu
    exact whenInitialised_precede s (runReadBit_precede hans ho)
  · rw [exec_field] at ht hu
    cases ht; cases hu
    exact execField_precede hans ty n ho
  · cases ht; cases hu
    exact runNs_precede hans n ho

end

/-- Settles O24: the first pull of a command passes over the answers, and a command without a pull leaves them. -/
theorem spuriousAnswersIgnored : Obligations.SpuriousAnswersIgnored := by
  intro i s t u spurious es ho hans ht hu
  obtain rfl | rfl := exec_precede hans i (s := { s with source := es }) ho ht hu
  · exact ⟨rfl, .inl rfl⟩
  · exact ⟨rfl, .inr rfl⟩

/-! ## A silent source -/

/-- Waiting again at the place where it waits changes nothing. -/
theorem suspend_of_job {j : Job} {s : State} (h : s.job = some j) : suspend j s = s := by
  rw [suspend, ← h]

theorem AwaitsPull.pullWaiting_eq {s : State} (h : AwaitsPull s) (he : s.source = []) :
    pullWaiting s.srcOutstanding [] s = s := by
  have hstate : (if s.srcOutstanding then EngineState.waitSrc else .exec) = s.engineState := by
    obtain hexec | hwait := (busy_iff s).1 h.busy
    · have ho : s.srcOutstanding = false := by simpa [hexec] using h.outstanding_iff
      rw [ho, hexec]
      rfl
    · rw [h.outstanding_iff.2 hwait, hwait]
      rfl
  rw [pullWaiting, hstate, ← he]

/-- The pull goes on waiting where it stands (70_reset R246). -/
theorem AwaitsPull.bitRead_silent {s : State} (h : AwaitsPull s) (he : s.source = []) : bitRead s = (.waiting, s) := by
  have hpull : pullFrom s.srcOutstanding s.source = ⟨none, s.srcOutstanding, []⟩ := by rw [he]; rfl
  rw [bitRead_of_pull_waits h.bitsLeft_eq h.budget_ne hpull, h.pullWaiting_eq he]

theorem AwaitsPull.fieldLoop_silent {s : State} (h : AwaitsPull s) (he : s.source = []) {n : Nat} (hn : 1 ≤ n) :
    fieldLoop n s = (.waiting n, s) := by
  obtain ⟨k, rfl⟩ := Nat.exists_eq_add_of_le' hn
  rw [fieldLoop, h.bitRead_silent he]

/-- A waiting command whose source shows nothing goes on to the same wait. -/
theorem resume_silent {s : State} (hi : s.Inv) (hj : s.JobInv) (hb : busy s = true) (he : s.source = []) :
    resume s = s := by
  obtain ⟨-, hw⟩ := hi.running_of_busy hb
  obtain ⟨j, hjob⟩ := Option.isSome_iff_exists.1 (hi.job_iff.2 hb)
  rw [resume_eq_run hjob]
  rw [State.JobInv, hjob] at hj
  refine Eq.trans ?_ (suspend_of_job hjob)
  cases j with
  | readBit => exact runReadBit_of_waiting (hw.bitRead_silent he)
  | field ty left =>
    obtain ⟨hleft, -⟩ := hj
    exact runField_of_waiting ty (hw.fieldLoop_silent he hleft)
  | nsFirst left =>
    obtain ⟨hleft, -⟩ := hj
    exact runNsFirst_of_waiting (hw.fieldLoop_silent he hleft)
  | nsExtra => exact runNsExtra_of_waiting (hw.fieldLoop_silent he le_rfl)

theorem runSucceeded_iff (s : State) :
    runSucceeded s = true ↔
      noCommandLeft s.host = true ∧ s.rspPending = false ∧ s.engineState = .idle ∧ s.fault = false := by
  simp [runSucceeded, and_assoc]

/-- Settles O14: the engine is busy, so the run has not succeeded; its command goes on to the same wait. -/
theorem silentSourceIsStuck : Obligations.SilentSourceIsStuck := by
  intro s hi hj hb he hr hd
  obtain ⟨hrun, -⟩ := hi.running_of_busy hb
  refine ⟨Bool.eq_false_iff.2 fun hs => ?_, hrun.fault, ?_⟩
  · obtain ⟨-, -, hidle, -⟩ := (runSucceeded_iff s).1 hs
    simp [busy, hidle] at hb
  · rw [step_of_busy hb hr hd, resume_silent hi hj hb he]

/-! ## A response that is not taken -/

/-- An idle engine that is not ready for the word the host holds does nothing (70_reset R245, log 6). -/
theorem step_of_not_ready {s : State} {w : CmdWord} {h : List HostAction} (he : s.engineState = .idle)
    (hr : rstAsserted s = false) (hh : s.host = .command w :: h) (hc : cmdReady s = false) : step s = .next s := by
  have hturn : turn s = .wait := by simp [turn, resetDue, hr, he, hh, hc]
  rw [step, hturn, takeTurn]

/-- Settles O13: the pending response shuts the command out, and the command keeps the host from taking the response. -/
theorem untakenResponseIsStuck : Obligations.UntakenResponseIsStuck := by
  intro s w h hi hp hr hh
  have hidle : s.engineState = .idle := hi.pending_idle hp
  have hfault : s.fault = false := Bool.eq_false_iff.2 fun hf => by cases hidle.symm.trans (hi.fault_iff.1 hf)
  refine ⟨Bool.eq_false_iff.2 fun hs => ?_, hfault, step_of_not_ready hidle hr hh (Bool.eq_false_iff.2 fun hc => ?_)⟩
  · obtain ⟨-, hnot, -⟩ := (runSucceeded_iff s).1 hs
    cases hp.symm.trans hnot
  · obtain ⟨-, hnot, -⟩ := (cmdReady_iff s).1 hc
    cases hp.symm.trans hnot

/-! ## Reset -/

/-- Settles O10: the step is the rise of `rst`, or the edge with `rst = 1`, whose writes are all named. -/
theorem resetFromEveryState : Obligations.ResetFromEveryState := by
  refine fun s => ⟨fun h hr hh => ?_, fun hr => ⟨engineReset s, step_of_rstAsserted hr, rfl, rfl, rfl, rfl, rfl, rfl, rfl,
    rfl, rfl, rfl, rfl, rfl, rfl, rfl, rfl, rfl, rfl, fun hd => ?_, fun h hh => ?_⟩⟩
  · rw [step_of_resetDue hr (resetDue_iff.2 ⟨h, hh⟩), raiseRst, hh, List.tail_cons]
  · simp [hd]
  · have hd : resetDue s = true := resetDue_iff.2 ⟨h, hh⟩
    simp [hd, hh]

/-- Settles O11: `rst` gates the outputs before the edge, and the reset values give them after it. -/
theorem outputsAroundReset : Obligations.OutputsAroundReset := by
  intro s hr
  refine ⟨?_, ?_, ?_, ?_, if_pos hr, engineReset s, step_of_rstAsserted hr, rfl, rfl, rfl, ?_, ?_⟩
  · simp [cmdReady, hr]
  · simp [rspValid, hr]
  · simp [srcReqValid, hr]
  · simp [abortOut, hr]
  · have hview : statView (engineReset s) = 0#64 := show statView State.reset = 0#64 by decide
    rw [stat, hview, ite_self]
  · simp [cmdReady_iff]

end Sys2Proof.Machine
